-- ==== Sys2Proof/Word.lean ====
section
/-! DEFINITION. The words of the block and the fixed names the spec gives its parts: agents, cores,
sources, channels, buses and registers (00_scope R12, R18; 10_state R30 to R55; 30_encoding R120). -/

namespace Sys2Proof

/-- `u8`: one byte lane (R12). -/
abbrev Byte := BitVec 8
/-- `u16`: a register, a bus value, a FIFO word (R9 `REG_BITS`, `DREQ_WORD_BITS`). -/
abbrev Half := BitVec 16
/-- `u32`: an internal address or a DMA channel value (R9 `INT_ADDR_BITS`). -/
abbrev Addr := BitVec 32
/-- `u9`: one palette entry (R9 `PAL_ENTRY_BITS`). -/
abbrev Color := BitVec 9
/-- The 64-bit transaction word of 30_encoding R120. -/
abbrev TxnWord := BitVec 64

/-- The two auxiliary cores, Master and Slave (10_state R30). -/
inductive CoreId where
  | m
  | s
  deriving DecidableEq, Repr

/-- `other(c)` of R13. -/
def CoreId.other : CoreId → CoreId
  | .m => .s
  | .s => .m

/-- The agents that issue transactions (00_scope R18): the host, the two cores, and `Env`. -/
inductive Agent where
  | host
  | core (c : CoreId)
  | env
  deriving DecidableEq, Repr, Inhabited

/-- The five interrupt sources (10_state R31). -/
inductive Source where
  | vres
  | vint
  | hint
  | cmd
  | pwm
  deriving DecidableEq, Repr

/-- The two DMA channels of a core (10_state R34). -/
inductive Channel where
  | ch0
  | ch1
  deriving DecidableEq, Repr

/-- The DMA channel fields that `DMACFG` and `DMARD` name (30_encoding R126). -/
inductive DmaField where
  | src
  | dst
  | count
  | ctrl
  deriving DecidableEq, Repr

/-- The two PWM channels, left and right (10_state R55). -/
inductive Side where
  | left
  | right
  deriving DecidableEq, Repr

/-- The two framebuffer banks (10_state R50). -/
inductive Bank where
  | b0
  | b1
  deriving DecidableEq, Repr

/-- `1 - b` of 10_state R52. -/
def Bank.other : Bank → Bank
  | .b0 => .b1
  | .b1 => .b0

/-- The two buses (20_memory R80). -/
inductive Bus where
  | int
  | ext
  deriving DecidableEq, Repr

/-- The direction of a bus access. -/
inductive Dir where
  | read
  | write
  deriving DecidableEq, Repr

/-- The two RESET kinds (70_reset R360): code 0 is power-on, code 1 is reset. -/
inductive ResetKind where
  | power
  | reset
  deriving DecidableEq, Repr

/-- What a PWM channel mode decodes to (44_pwm R308). -/
inductive PwmMode where
  | off
  | on
  | illegal
  deriving DecidableEq, Repr

/-- The two resources that engagement guards (43_framebuffer_arbiter R270). -/
inductive Resource where
  | fb
  | pal
  deriving DecidableEq, Repr

/-- The logical registers that have a 16-bit storage latch (10_state R35), in the register-id order
of 30_encoding R127. -/
inductive Latch where
  | adapterCtrl
  | bankSelect
  | dreqCtrl
  | dreqSrcHi
  | dreqSrcLo
  | dreqDstHi
  | dreqDstLo
  | dreqLen
  | dreqFifo
  | comm (n : Fin 8)
  | pwmCtrl
  | pwmCycle
  | pwmLeft
  | pwmRight
  | pwmMono
  | vdpMode
  | fillLen
  | fillAddr
  | fillData
  | fbCtrl
  deriving DecidableEq, Repr

/-- Every logical register of 30_encoding R127: the latches, and the three kinds that have no latch
of their own. -/
inductive Reg where
  | latch (l : Latch)
  | intMask
  | intClr (src : Source)
  | palette
  deriving DecidableEq, Repr

/-- What is kept once for each core. -/
structure PerCore (α : Type) where
  m : α
  s : α
  deriving DecidableEq, Repr

def PerCore.get {α : Type} (p : PerCore α) : CoreId → α
  | .m => p.m
  | .s => p.s

def PerCore.set {α : Type} (p : PerCore α) (c : CoreId) (v : α) : PerCore α :=
  match c with
  | .m => { p with m := v }
  | .s => { p with s := v }

/-- What is kept once for each channel of a core. -/
structure PerChannel (α : Type) where
  c0 : α
  c1 : α
  deriving DecidableEq, Repr

def PerChannel.get {α : Type} (p : PerChannel α) : Channel → α
  | .ch0 => p.c0
  | .ch1 => p.c1

def PerChannel.set {α : Type} (p : PerChannel α) (c : Channel) (v : α) : PerChannel α :=
  match c with
  | .ch0 => { p with c0 := v }
  | .ch1 => { p with c1 := v }

/-- What is kept once for each PWM channel. -/
structure PerSide (α : Type) where
  left  : α
  right : α
  deriving DecidableEq, Repr

def PerSide.get {α : Type} (p : PerSide α) : Side → α
  | .left => p.left
  | .right => p.right

def PerSide.set {α : Type} (p : PerSide α) (c : Side) (v : α) : PerSide α :=
  match c with
  | .left => { p with left := v }
  | .right => { p with right := v }

/-- What is kept once for each framebuffer bank. -/
structure PerBank (α : Type) where
  b0 : α
  b1 : α
  deriving DecidableEq, Repr

def PerBank.get {α : Type} (p : PerBank α) : Bank → α
  | .b0 => p.b0
  | .b1 => p.b1

def PerBank.set {α : Type} (p : PerBank α) (b : Bank) (v : α) : PerBank α :=
  match b with
  | .b0 => { p with b0 := v }
  | .b1 => { p with b1 := v }

end Sys2Proof
end

