-- ==== Sys2Proof/Config.lean ====
section
/-! DEFINITION. The configuration of the block (00_scope R10, 10_state R60) as plain data, and the free
values the spec leaves open (`draw`, 00_scope R15). The state carries one `Config`, which no
transaction writes; the default values stand in Machine/Defaults.lean, the constraints in
Machine/Check.lean. -/

namespace Sys2Proof

/-- A memory of `w`-bit cells as a list of (address, value) pairs; its one canonical form is
`Mem.wf` of Machine/Ops.lean. -/
abbrev Mem (w : Nat) := List (Nat × BitVec w)

/-- A byte memory: a list of `Host.Cell`. -/
abbrev Memory := List Host.Cell

/-- The byte spaces whose contents power-on draws (10_state R70). -/
inductive Space where
  | dram (b : Bank)
  | cacheRam (c : CoreId)
  | sdram
  deriving DecidableEq, Repr

/-- A read-only ROM image (00_scope R7, R10): `size` bytes, held sparsely. -/
structure Image where
  size  : Nat
  cells : Memory
  deriving DecidableEq, Repr

/-- A bit field of a register: `width` bits from bit `lo` upward (30_encoding R131). -/
structure BitField where
  lo    : Nat
  width : Nat
  deriving DecidableEq, Repr

/-- The field positions `FP_*` of 30_encoding R131. -/
structure FieldPos where
  aden       : Nat
  res        : Nat
  fm         : Nat
  bank       : BitField
  enPwm      : Nat
  enCmd      : Nat
  enHint     : Nat
  enVint     : Nat
  enVres     : Option Nat
  imAden     : Nat
  imFm       : Nat
  dreqActive : Nat
  dreqFull   : Nat
  fs         : Nat
  fillLen    : BitField
  pwmLmode   : BitField
  pwmRmode   : BitField
  pwmDreqIrq : Nat
  pwmTm      : BitField
  deriving DecidableEq, Repr

/-- The targets of 20_memory R85. -/
inductive Target where
  | reg (r : Reg)
  | boot
  | progRom
  | romFixed
  | romBank
  | vecRom
  | cart
  | dram
  | sdram
  | cache
  deriving DecidableEq, Repr

/-- The conditions of 20_memory R84. -/
inductive Cond where
  | always
  | boot (c : CoreId)
  | cache (c : CoreId)
  | aden
  | noaden
  deriving DecidableEq, Repr

/-- One entry of the address map (20_memory R84). -/
structure Entry where
  bus    : Bus
  lo     : Nat
  hi     : Nat
  target : Target
  cond   : Cond
  deriving DecidableEq, Repr

/-- The inputs of an engagement predicate: vblank, hblank and `FM` (43_framebuffer_arbiter R270). -/
structure Raster where
  vb : Bool
  hb : Bool
  fm : Bool
  deriving DecidableEq, Repr

/-- Every parameter of 00_scope R10. A parameter that is a function over a finite domain is held as data: an engagement predicate as the list of the inputs at
which the resource is engaged, the three PWM functions as tables of the arguments at which they
differ from the spec's default (assumption 7). `SERIAL_FORMAT` is held as the number of a format, and
`Config.serialCode` of Machine/State.lean is what the format of that number writes (assumption 15). -/
structure Config where
  extAddrBits   : Nat
  dreqDepth     : Nat
  dmaCountBits  : Nat
  fbBankBytes   : Nat
  sdramBytes    : Nat
  romBankBytes  : Nat
  pwmDepth      : Nat
  pwmSampleBits : Nat
  pwmCycleTable  : List (Half × Nat)
  pwmPeriodTable : List (Nat × Nat)
  pwmModeTable   : List ((Half × Side) × PwmMode)
  engagedFb     : List Raster
  engagedPal    : List Raster
  addrMap       : List Entry
  fields        : FieldPos
  serialFormat  : Nat
  rom           : Image
  bootRom       : PerCore Image
  vectorRom     : Image
  deriving DecidableEq, Repr

/-- Why a configuration is ill-formed (60_exceptions R337). -/
inductive ConfigError where
  /-- A parameter outside its constraint of 00_scope R10. -/
  | parameter
  /-- A map entry with an odd `lo`, an even `hi` or `lo > hi` (20_memory R84). -/
  | entryRange
  /-- A map entry whose condition, target and bus do not go together (20_memory R86, R87; 10_state R59;
  41_bus_decoder R216, R222), or whose window does not have its target's size (30_encoding R129;
  10_state R50, R58, R59). -/
  | entryTarget
  /-- A register mapped on a bus where it has no view (30_encoding R127). -/
  | noView
  /-- Two entries of equal size that both match some address under some state (20_memory R84). -/
  | ambiguous
  /-- Named fields outside their register or overlapping in it (30_encoding R131). -/
  | fields
  /-- An engagement predicate that breaks its obligation (43_framebuffer_arbiter R270). -/
  | engagement
  deriving DecidableEq, Repr

/-- `draw(16)` (00_scope R15): the free value of the `n`-th draw. Nothing constrains it. -/
opaque Config.freeHalf : Nat → Half

/-- The agent that takes the next step where `State.turns` names none (00_scope R18: any agent may).
Nothing constrains it. -/
opaque Config.freeTurn : Nat → Agent

/-- The bytes that a power-on draw finds in a memory (10_state R70 `draw`). Nothing constrains them. -/
opaque Config.freeCells : Nat → Space → Memory

/-- The entries that a power-on draw finds in the palette (10_state R70 `draw`). -/
opaque Config.freeColors : Nat → Mem 9

end Sys2Proof
end

