-- ==== Sys2Proof/Machine/Defaults.lean ====
section
/-! DEFINITION. The default configuration: the parameter defaults of 00_scope R10, the default address
map of 30_encoding R128, the default field positions of R131 and the default functions of R133 and
44_pwm D52. Marked PRESUMED in assumption 20: the spec takes most of these numbers from general
knowledge, and no rule depends on them. -/

namespace Sys2Proof

/-- A register entry covers the two bytes `lo` and `lo + 1` (30_encoding R129). -/
def regEntry (bus : Bus) (cond : Cond) (lo : Nat) (r : Reg) : Entry :=
  { bus := bus, lo := lo, hi := lo + 1, target := .reg r, cond := cond }

/-- A window of `size` bytes from `lo`. -/
def windowEntry (bus : Bus) (cond : Cond) (lo size : Nat) (t : Target) : Entry :=
  { bus := bus, lo := lo, hi := lo + size - 1, target := t, cond := cond }

/-- `COMM0` to `COMM7` at `lo`, `lo + 2`, … (30_encoding R128). -/
def commEntries (bus : Bus) (cond : Cond) (lo : Nat) : List Entry :=
  [regEntry bus cond lo (.latch (.comm 0)), regEntry bus cond (lo + 2) (.latch (.comm 1)),
   regEntry bus cond (lo + 4) (.latch (.comm 2)), regEntry bus cond (lo + 6) (.latch (.comm 3)),
   regEntry bus cond (lo + 8) (.latch (.comm 4)), regEntry bus cond (lo + 10) (.latch (.comm 5)),
   regEntry bus cond (lo + 12) (.latch (.comm 6)), regEntry bus cond (lo + 14) (.latch (.comm 7))]

/-- The DREQ registers from `DREQ_CTRL` to `DREQ_FIFO`, two bytes apart. -/
def dreqEntries (bus : Bus) (cond : Cond) (lo : Nat) : List Entry :=
  [regEntry bus cond lo (.latch .dreqCtrl), regEntry bus cond (lo + 2) (.latch .dreqSrcHi),
   regEntry bus cond (lo + 4) (.latch .dreqSrcLo), regEntry bus cond (lo + 6) (.latch .dreqDstHi),
   regEntry bus cond (lo + 8) (.latch .dreqDstLo), regEntry bus cond (lo + 10) (.latch .dreqLen),
   regEntry bus cond (lo + 12) (.latch .dreqFifo)]

/-- The PWM registers, two bytes apart. -/
def pwmEntries (bus : Bus) (cond : Cond) (lo : Nat) : List Entry :=
  [regEntry bus cond lo (.latch .pwmCtrl), regEntry bus cond (lo + 2) (.latch .pwmCycle),
   regEntry bus cond (lo + 4) (.latch .pwmLeft), regEntry bus cond (lo + 6) (.latch .pwmRight),
   regEntry bus cond (lo + 8) (.latch .pwmMono)]

/-- `VDP_MODE` at `lo`, and the fill registers and `FB_CTRL` from `lo + 4`. -/
def fbEntries (bus : Bus) (cond : Cond) (lo : Nat) : List Entry :=
  [regEntry bus cond lo (.latch .vdpMode), regEntry bus cond (lo + 4) (.latch .fillLen),
   regEntry bus cond (lo + 6) (.latch .fillAddr), regEntry bus cond (lo + 8) (.latch .fillData),
   regEntry bus cond (lo + 10) (.latch .fbCtrl)]

/-- The internal half of the default map (30_encoding R128). -/
def defaultIntMap (fbBytes sdramBytes : Nat) : List Entry :=
  [windowEntry .int (.boot .m) 0x00000000 0x800 .boot,
   windowEntry .int (.boot .s) 0x00000000 0x800 .boot,
   regEntry .int .always 0x00004000 .intMask]
  ++ dreqEntries .int .always 0x00004006
  ++ [regEntry .int .always 0x00004014 (.intClr .vres),
      regEntry .int .always 0x00004016 (.intClr .vint),
      regEntry .int .always 0x00004018 (.intClr .hint),
      regEntry .int .always 0x0000401A (.intClr .cmd),
      regEntry .int .always 0x0000401C (.intClr .pwm)]
  ++ commEntries .int .always 0x00004020
  ++ pwmEntries .int .always 0x00004030
  ++ fbEntries .int .always 0x00004100
  ++ [windowEntry .int .always 0x00004200 0x200 (.reg .palette),
      windowEntry .int .always 0x02000000 0x400000 .progRom,
      windowEntry .int .always 0x04000000 fbBytes .dram,
      windowEntry .int .always 0x06000000 sdramBytes .sdram,
      windowEntry .int (.cache .m) 0xC0000000 0x1000 .cache,
      windowEntry .int (.cache .s) 0xC0000000 0x1000 .cache]

/-- The external half of the default map (30_encoding R128). -/
def defaultExtMap (fbBytes romBankBytes : Nat) : List Entry :=
  [windowEntry .ext .noaden 0x000000 0x400000 .cart,
   windowEntry .ext .aden 0x000000 0x100 .vecRom,
   windowEntry .ext .aden 0x840000 fbBytes .dram,
   windowEntry .ext .aden 0x880000 0x80000 .romFixed,
   windowEntry .ext .aden 0x900000 romBankBytes .romBank,
   regEntry .ext .always 0xA15100 (.latch .adapterCtrl),
   regEntry .ext .aden 0xA15104 (.latch .bankSelect)]
  ++ dreqEntries .ext .aden 0xA15106
  ++ commEntries .ext .aden 0xA15120
  ++ pwmEntries .ext .aden 0xA15130
  ++ fbEntries .ext .aden 0xA15180
  ++ [windowEntry .ext .aden 0xA15200 0x200 (.reg .palette)]

/-- The default field positions (30_encoding R131). -/
def defaultFields : FieldPos :=
  { aden := 0, res := 1, fm := 15
    bank := { lo := 0, width := 2 }
    enPwm := 0, enCmd := 1, enHint := 2, enVint := 3, enVres := none
    imAden := 9, imFm := 15
    dreqActive := 2, dreqFull := 7
    fs := 0
    fillLen := { lo := 0, width := 8 }
    pwmLmode := { lo := 0, width := 2 }, pwmRmode := { lo := 2, width := 2 }
    pwmDreqIrq := 7
    pwmTm := { lo := 8, width := 4 } }

/-- No image: the launch supplies the ROMs (00_scope R10). -/
def emptyImage : Image := { size := 0, cells := [] }

/-- The default configuration, without ROM images. `ENGAGED_FB` is `not vb and not hb and fm = 0`,
`ENGAGED_PAL` is `not vb and not hb` (43_framebuffer_arbiter R270). -/
def Config.default : Config :=
  { extAddrBits := 24
    dreqDepth := 8
    dmaCountBits := 24
    fbBankBytes := 0x20000
    sdramBytes := 0x40000
    romBankBytes := 0x100000
    pwmDepth := 3
    pwmSampleBits := 12
    pwmCycleTable := []
    pwmPeriodTable := []
    pwmModeTable := []
    engagedFb := [{ vb := false, hb := false, fm := false }]
    engagedPal := [{ vb := false, hb := false, fm := false }, { vb := false, hb := false, fm := true }]
    addrMap := defaultIntMap 0x20000 0x40000 ++ defaultExtMap 0x20000 0x100000
    fields := defaultFields
    serialFormat := 0
    rom := emptyImage
    bootRom := { m := emptyImage, s := emptyImage }
    vectorRom := emptyImage }

/-- The first value a table gives for an argument. -/
def lookup {α β : Type} [DecidableEq α] (x : α) : List (α × β) → Option β
  | [] => none
  | (a, b) :: t => if a = x then some b else lookup x t

/-- The field `f` of a register value, as an unsigned number (00_scope R12 `v[hi:lo]`). -/
def BitField.read (f : BitField) (v : Half) : Nat := (v.toNat / 2 ^ f.lo) % 2 ^ f.width

/-- `PWM_CYCLE_CLOCKS`: the table's value, else the default `v[11:0]` (00_scope R10). -/
def Config.pwmCycleClocks (cfg : Config) (v : Half) : Nat :=
  match lookup v cfg.pwmCycleTable with
  | some n => n
  | none => v.toNat % 4096

/-- `PWM_PERIOD`: the table's value, else 16 if the field is 0, else the field (00_scope R10). -/
def Config.pwmPeriod (cfg : Config) (tm : Nat) : Nat :=
  match lookup tm cfg.pwmPeriodTable with
  | some n => n
  | none => if tm = 0 then 16 else tm

/-- The mode field of a PWM channel. -/
def Config.pwmModeField (cfg : Config) : Side → BitField
  | .left => cfg.fields.pwmLmode
  | .right => cfg.fields.pwmRmode

/-- `PWM_MODE`: the table's value, else the default decode of 30_encoding R133: 0 is off, 1 and 2 are
on, 3 is illegal. -/
def Config.pwmMode (cfg : Config) (ctrl : Half) (side : Side) : PwmMode :=
  match lookup (ctrl, side) cfg.pwmModeTable with
  | some mode => mode
  | none =>
    match (cfg.pwmModeField side).read ctrl with
    | 0 => .off
    | 1 => .on
    | 2 => .on
    | _ => .illegal

/-- A ROM image of a configuration with its bytes. -/
def Image.ofBytes (bytes : List Byte) : Image :=
  { size := bytes.length, cells := (bytes.zipIdx.map (fun p => (p.2, p.1))).filter (fun p => p.2 != 0#8) }

end Sys2Proof
end

