-- ==== Sys2Proof/Syntax.lean ====
section
/-! DEFINITION. The transactions of 30_encoding R121, the block's counterpart of instructions
(00_scope R4): one constructor per row of spec/opcode_table.json. -/

namespace Sys2Proof

/-- One transaction. `ag` is the issuing agent (`AG`), kept in every constructor because an agent a
tag does not admit is a fault of the transaction, not a refusal of its word (30_encoding R122). -/
inductive Instr where
  /-- `readInternal` (41_bus_decoder R200). -/
  | rdi (ag : Agent) (u l : Bool) (a : Addr) (prior : Half)
  /-- `writeInternal` (R201). -/
  | wri (ag : Agent) (u l : Bool) (a : Addr) (v : Half)
  /-- `readExternal` (R202). -/
  | rdx (ag : Agent) (u l : Bool) (a : Addr) (prior : Half)
  /-- `writeExternal` (R203). -/
  | wrx (ag : Agent) (u l : Bool) (a : Addr) (v : Half)
  /-- `raise(source)` (40_interrupt_router R175). -/
  | raise (ag : Agent) (src : Source)
  /-- `acknowledge(source)` (R176). -/
  | ack (ag : Agent) (src : Source)
  /-- `setEnable(core, source, value)` (R177). -/
  | seten (ag : Agent) (src : Source) (value : Bool)
  /-- The interrupt and DMA part of `run()` (R168). -/
  | poll (ag : Agent) (mask : BitVec 4)
  /-- One pixel write of a core's autofill (43_framebuffer_arbiter R284). -/
  | fillstep (ag : Agent)
  /-- A core programs a DMA channel field (42_dreq_bridge R251). -/
  | dmacfg (ag : Agent) (ch : Channel) (field : DmaField) (value : Addr)
  /-- A core reads a DMA channel field (R252). -/
  | dmard (ag : Agent) (ch : Channel) (field : DmaField)
  /-- A core has jumped past the boot ROM (41_bus_decoder R226). -/
  | bootexit (ag : Agent)
  /-- A core sets its cache-enable flag (R227). -/
  | cachecfg (ag : Agent) (enable : Bool)
  /-- `vblank(line)` (40_interrupt_router R173). -/
  | vblank (ag : Agent) (line : Bool)
  /-- `hblank(line)` (R174). -/
  | hblank (ag : Agent) (line : Bool)
  /-- One PWM divider clock (44_pwm R305). -/
  | pwmclk (ag : Agent)
  /-- The power/reset event (70_reset R360). -/
  | reset (ag : Agent) (kind : ResetKind)
  /-- `serialize(stream)` (R366). -/
  | serialize (ag : Agent)
  deriving DecidableEq, Repr

/-- The agent that issues the transaction. -/
def Instr.agent : Instr → Agent
  | .rdi ag _ _ _ _ => ag
  | .wri ag _ _ _ _ => ag
  | .rdx ag _ _ _ _ => ag
  | .wrx ag _ _ _ _ => ag
  | .raise ag _ => ag
  | .ack ag _ => ag
  | .seten ag _ _ => ag
  | .poll ag _ => ag
  | .fillstep ag => ag
  | .dmacfg ag _ _ _ => ag
  | .dmard ag _ _ => ag
  | .bootexit ag => ag
  | .cachecfg ag _ => ag
  | .vblank ag _ => ag
  | .hblank ag _ => ag
  | .pwmclk ag => ag
  | .reset ag _ => ag
  | .serialize ag => ag

end Sys2Proof
end

