-- ==== Sys2Proof/WellFormed.lean ====
section
/-! DEFINITION. Which terms of `Instr` have a transaction word: the value checks of 30_encoding R126 and
R130 that the types of Syntax.lean do not already make. -/

namespace Sys2Proof

/-- The value of a `DMACFG` field is not reserved (30_encoding R126): a `ctrl` value has bits 31:6
zero, a `count` value is below `2^DMA_COUNT_BITS`. -/
def dmaValueOk (countBits : Nat) (field : DmaField) (value : Addr) : Bool :=
  match field with
  | .src => true
  | .dst => true
  | .count => decide (value.toNat < 2 ^ countBits)
  | .ctrl => decide (value.toNat < 64)

/-- The transaction has a word that is not refused under `DMA_COUNT_BITS = countBits` (R130). -/
def Instr.wellFormed (countBits : Nat) : Instr → Bool
  | .rdi _ _ _ _ _ => true
  | .wri _ _ _ _ _ => true
  | .rdx _ _ _ _ _ => true
  | .wrx _ _ _ _ _ => true
  | .raise _ _ => true
  | .ack _ _ => true
  | .seten _ _ _ => true
  | .poll _ _ => true
  | .fillstep _ => true
  | .dmacfg _ _ field value => dmaValueOk countBits field value
  | .dmard _ _ _ => true
  | .bootexit _ => true
  | .cachecfg _ _ => true
  | .vblank _ _ => true
  | .hblank _ _ => true
  | .pwmclk _ => true
  | .reset _ _ => true
  | .serialize _ => true

end Sys2Proof
end

