-- ==== Sys2Proof/Decode.lean ====
section
/-! DEFINITION. The decoder of the 64-bit transaction word (30_encoding R120 to R130), total on every word
and rejecting by name, and after it the encoder, from the same tables. A word is the unit the spec
gives; it has no byte order in a memory (assumption 26). -/

namespace Sys2Proof

/-- Why a word is refused (30_encoding R130). -/
inductive Reject where
  /-- An `OP` not in the table of R121. -/
  | opcode
  /-- A nonzero field that R123 or R124 requires to be zero. -/
  | mustBeZero
  /-- A source code of 5 to 7 (R125). -/
  | sourceCode
  /-- A DMA field code of 4 to 7 (R126). -/
  | dmaFieldCode
  /-- A `ctrl` value with bits 31:6 nonzero (R126). -/
  | ctrlBits
  /-- A `count` value at or above `2^DMA_COUNT_BITS` (R126). -/
  | countRange
  deriving DecidableEq, Repr

/-- What a word decodes to. -/
inductive Decoded where
  | ok (i : Instr)
  | rejected (why : Reject)
  deriving DecidableEq, Repr

/-- The fields of the one transaction format (30_encoding R120). -/
structure Txn where
  op   : BitVec 8
  ag   : BitVec 2
  u    : Bool
  l    : Bool
  arg  : BitVec 4
  addr : Addr
  data : Half
  deriving DecidableEq, Repr

/-- The fields of a word, at the bit positions of R120. -/
def Txn.ofWord (w : TxnWord) : Txn :=
  { op := w.extractLsb' 56 8, ag := w.extractLsb' 54 2, u := w.getLsbD 53, l := w.getLsbD 52,
    arg := w.extractLsb' 48 4, addr := w.extractLsb' 16 32, data := w.extractLsb' 0 16 }

/-- The word with the given fields (R120). -/
def Txn.toWord (t : Txn) : TxnWord :=
  t.op ++ t.ag ++ BitVec.ofBool t.u ++ BitVec.ofBool t.l ++ t.arg ++ t.addr ++ t.data

/-- The codes of `AG` (R120). -/
def Agent.ofCode (c : BitVec 2) : Agent :=
  match c.toNat with
  | 0 => .host
  | 1 => .core .m
  | 2 => .core .s
  | _ => .env

def Agent.code : Agent → BitVec 2
  | .host => 0
  | .core .m => 1
  | .core .s => 2
  | .env => 3

/-- The agent of a word, whether or not the rest of the word decodes. -/
def wordAgent (w : TxnWord) : Agent := Agent.ofCode (Txn.ofWord w).ag

/-- The source codes of R125; 5 to 7 are reserved. -/
def Source.ofCode (c : BitVec 3) : Option Source :=
  match c.toNat with
  | 0 => some .vres
  | 1 => some .vint
  | 2 => some .hint
  | 3 => some .cmd
  | 4 => some .pwm
  | _ => none

def Source.code : Source → BitVec 3
  | .vres => 0
  | .vint => 1
  | .hint => 2
  | .cmd => 3
  | .pwm => 4

/-- The DMA field codes of R126; 4 to 7 are reserved. -/
def DmaField.ofCode (c : BitVec 3) : Option DmaField :=
  match c.toNat with
  | 0 => some .src
  | 1 => some .dst
  | 2 => some .count
  | 3 => some .ctrl
  | _ => none

def DmaField.code : DmaField → BitVec 3
  | .src => 0
  | .dst => 1
  | .count => 2
  | .ctrl => 3

/-- `ch = ARG[3]` (R124). -/
def Channel.ofBit : Bool → Channel
  | false => .ch0
  | true => .ch1

def Channel.bit : Channel → Bool
  | .ch0 => false
  | .ch1 => true

/-- `kind = ARG[0]`: 0 is power-on, 1 is reset (R124). -/
def ResetKind.ofBit : Bool → ResetKind
  | false => .power
  | true => .reset

def ResetKind.bit : ResetKind → Bool
  | .power => false
  | .reset => true

/-- `ARG[3]`. -/
def Txn.argHi (t : Txn) : Bool := t.arg.getLsbD 3
/-- `ARG[2:0]`. -/
def Txn.argLow (t : Txn) : BitVec 3 := t.arg.extractLsb' 0 3
/-- `ARG[0]`. -/
def Txn.argBit (t : Txn) : Bool := t.arg.getLsbD 0

/-- `U`, `L`, `ADDR` and `DATA` are zero, as R123 requires outside the bus calls and `DMACFG`. -/
def Txn.plain (t : Txn) : Bool := !t.u && !t.l && t.addr == 0#32 && t.data == 0#16

/-- `i` where the must-be-zero fields are zero, else the refusal of R130. -/
def Txn.guardZero (ok : Bool) (d : Decoded) : Decoded :=
  if ok then d else .rejected .mustBeZero

/-- The reserved values of a `DMACFG` (R126). -/
def decodeDmaValue (countBits : Nat) (field : DmaField) (value : Addr) (i : Instr) : Decoded :=
  match field with
  | .src => .ok i
  | .dst => .ok i
  | .count => if value.toNat < 2 ^ countBits then .ok i else .rejected .countRange
  | .ctrl => if value.toNat < 64 then .ok i else .rejected .ctrlBits

/-- A tag whose `ARG` holds `ARG[3]` and a source code (R124, R125). -/
def decodeSource (t : Txn) (k : Source → Instr) : Decoded :=
  match Source.ofCode t.argLow with
  | none => .rejected .sourceCode
  | some src => .ok (k src)

/-- A tag whose `ARG` holds `ARG[3]` and a DMA field code (R124, R126). -/
def decodeDmaField (t : Txn) (k : DmaField → Decoded) : Decoded :=
  match DmaField.ofCode t.argLow with
  | none => .rejected .dmaFieldCode
  | some f => k f

/-- The transaction that the fields spell (R121 to R126), or why they are refused (R130). -/
def decodeTxn (countBits : Nat) (t : Txn) : Decoded :=
  match t.op.toNat with
  | 0x01 => Txn.guardZero (t.arg == 0#4) (.ok (.rdi (Agent.ofCode t.ag) t.u t.l t.addr t.data))
  | 0x02 => Txn.guardZero (t.arg == 0#4) (.ok (.wri (Agent.ofCode t.ag) t.u t.l t.addr t.data))
  | 0x03 => Txn.guardZero (t.arg == 0#4) (.ok (.rdx (Agent.ofCode t.ag) t.u t.l t.addr t.data))
  | 0x04 => Txn.guardZero (t.arg == 0#4) (.ok (.wrx (Agent.ofCode t.ag) t.u t.l t.addr t.data))
  | 0x10 => Txn.guardZero (t.plain && !t.argHi) (decodeSource t (.raise (Agent.ofCode t.ag)))
  | 0x11 => Txn.guardZero (t.plain && !t.argHi) (decodeSource t (.ack (Agent.ofCode t.ag)))
  | 0x12 => Txn.guardZero t.plain
      (decodeSource t (fun src => .seten (Agent.ofCode t.ag) src t.argHi))
  | 0x20 => Txn.guardZero t.plain (.ok (.poll (Agent.ofCode t.ag) t.arg))
  | 0x21 => Txn.guardZero (t.plain && t.arg == 0#4) (.ok (.fillstep (Agent.ofCode t.ag)))
  | 0x22 => Txn.guardZero (!t.u && !t.l && t.data == 0#16)
      (decodeDmaField t (fun f => decodeDmaValue countBits f t.addr
        (.dmacfg (Agent.ofCode t.ag) (Channel.ofBit t.argHi) f t.addr)))
  | 0x23 => Txn.guardZero t.plain
      (decodeDmaField t (fun f => .ok (.dmard (Agent.ofCode t.ag) (Channel.ofBit t.argHi) f)))
  | 0x24 => Txn.guardZero (t.plain && t.arg == 0#4) (.ok (.bootexit (Agent.ofCode t.ag)))
  | 0x25 => Txn.guardZero (t.plain && t.arg.extractLsb' 1 3 == 0#3)
      (.ok (.cachecfg (Agent.ofCode t.ag) t.argBit))
  | 0x30 => Txn.guardZero (t.plain && t.arg.extractLsb' 1 3 == 0#3)
      (.ok (.vblank (Agent.ofCode t.ag) t.argBit))
  | 0x31 => Txn.guardZero (t.plain && t.arg.extractLsb' 1 3 == 0#3)
      (.ok (.hblank (Agent.ofCode t.ag) t.argBit))
  | 0x40 => Txn.guardZero (t.plain && t.arg == 0#4) (.ok (.pwmclk (Agent.ofCode t.ag)))
  | 0x50 => Txn.guardZero (t.plain && t.arg.extractLsb' 1 3 == 0#3)
      (.ok (.reset (Agent.ofCode t.ag) (ResetKind.ofBit t.argBit)))
  | 0x60 => Txn.guardZero (t.plain && t.arg == 0#4) (.ok (.serialize (Agent.ofCode t.ag)))
  | _ => .rejected .opcode

/-- The transaction of a word under `DMA_COUNT_BITS = countBits`. -/
def decode (countBits : Nat) (w : TxnWord) : Decoded := decodeTxn countBits (Txn.ofWord w)

/-- `ARG` from `ARG[3]` and `ARG[2:0]`. -/
def packArg (hi : Bool) (low : BitVec 3) : BitVec 4 := BitVec.ofBool hi ++ low

/-- `ARG` from `ARG[0]`. -/
def bitArg (b : Bool) : BitVec 4 := 0#3 ++ BitVec.ofBool b

/-- A bus call's fields. -/
def busTxn (op : BitVec 8) (ag : Agent) (u l : Bool) (a : Addr) (v : Half) : Txn :=
  { op := op, ag := ag.code, u := u, l := l, arg := 0#4, addr := a, data := v }

/-- The fields of a tag that has only an agent, an `ARG` and an `ADDR` value. -/
def argTxn (op : BitVec 8) (ag : Agent) (arg : BitVec 4) (value : Addr := 0#32) : Txn :=
  { op := op, ag := ag.code, u := false, l := false, arg := arg, addr := value, data := 0#16 }

/-- The tag `OP` of each transaction (30_encoding R121). -/
def Instr.opcode : Instr → BitVec 8
  | .rdi _ _ _ _ _ => 0x01
  | .wri _ _ _ _ _ => 0x02
  | .rdx _ _ _ _ _ => 0x03
  | .wrx _ _ _ _ _ => 0x04
  | .raise _ _ => 0x10
  | .ack _ _ => 0x11
  | .seten _ _ _ => 0x12
  | .poll _ _ => 0x20
  | .fillstep _ => 0x21
  | .dmacfg _ _ _ _ => 0x22
  | .dmard _ _ _ => 0x23
  | .bootexit _ => 0x24
  | .cachecfg _ _ => 0x25
  | .vblank _ _ => 0x30
  | .hblank _ _ => 0x31
  | .pwmclk _ => 0x40
  | .reset _ _ => 0x50
  | .serialize _ => 0x60

/-- The fields of a transaction (30_encoding R121 to R126). -/
def encodeTxn (i : Instr) : Txn :=
  match i with
  | .rdi ag u l a v => busTxn i.opcode ag u l a v
  | .wri ag u l a v => busTxn i.opcode ag u l a v
  | .rdx ag u l a v => busTxn i.opcode ag u l a v
  | .wrx ag u l a v => busTxn i.opcode ag u l a v
  | .raise ag src => argTxn i.opcode ag (packArg false src.code)
  | .ack ag src => argTxn i.opcode ag (packArg false src.code)
  | .seten ag src value => argTxn i.opcode ag (packArg value src.code)
  | .poll ag mask => argTxn i.opcode ag mask
  | .fillstep ag => argTxn i.opcode ag 0#4
  | .dmacfg ag ch field value => argTxn i.opcode ag (packArg ch.bit field.code) value
  | .dmard ag ch field => argTxn i.opcode ag (packArg ch.bit field.code)
  | .bootexit ag => argTxn i.opcode ag 0#4
  | .cachecfg ag enable => argTxn i.opcode ag (bitArg enable)
  | .vblank ag line => argTxn i.opcode ag (bitArg line)
  | .hblank ag line => argTxn i.opcode ag (bitArg line)
  | .pwmclk ag => argTxn i.opcode ag 0#4
  | .reset ag kind => argTxn i.opcode ag (bitArg kind.bit)
  | .serialize ag => argTxn i.opcode ag 0#4

/-- The word of a transaction. -/
def encode (i : Instr) : TxnWord := (encodeTxn i).toWord

/-- The transaction the decoder reads from an opcode-table word of `nbits` bits, every bit above
`nbits` zero, under the default `DMA_COUNT_BITS` (assumption 21). -/
def decodeTableWord (nbits w : Nat) : Option Instr :=
  match decode Config.default.dmaCountBits (BitVec.ofNat 64 (w % 2 ^ nbits)) with
  | .ok i => some i
  | .rejected _ => none

end Sys2Proof
end

