-- ==== Sys2Proof/Machine/Check.lean ====
section
/-! DEFINITION. The constraints on a configuration (60_exceptions R337): 00_scope R10, 20_memory R84,
30_encoding R127, R129 and R131, 43_framebuffer_arbiter R270. A configuration that breaks one refuses
every step. -/

namespace Sys2Proof

/-- What 30_encoding R127 says of a register access: its rule, an `F` cell, or no view. -/
inductive View where
  | given
  | unmodelled
  | none
  deriving DecidableEq, Repr

/-- The access table of 30_encoding R127. -/
def viewOf (r : Reg) (bus : Bus) (dir : Dir) : View :=
  match r, bus, dir with
  | .latch .adapterCtrl, .ext, _ => .given
  | .latch .adapterCtrl, .int, _ => .none
  | .latch .bankSelect, .int, .write => .unmodelled
  | .latch .dreqCtrl, .int, .write => .unmodelled
  | .latch .dreqSrcHi, .int, .write => .unmodelled
  | .latch .dreqSrcLo, .int, .write => .unmodelled
  | .latch .dreqDstHi, .int, .write => .unmodelled
  | .latch .dreqDstLo, .int, .write => .unmodelled
  | .latch .dreqLen, .int, .write => .unmodelled
  | .latch .dreqFifo, .int, _ => .unmodelled
  | .latch .dreqFifo, .ext, .read => .unmodelled
  | .latch .dreqFifo, .ext, .write => .given
  | .latch _, _, _ => .given
  | .intMask, .int, _ => .given
  | .intMask, .ext, _ => .none
  | .intClr _, .int, _ => .given
  | .intClr _, .ext, _ => .none
  | .palette, _, _ => .given

/-- The number of addresses of a bus (20_memory R80, R104). -/
def Config.busSpace (cfg : Config) : Bus → Nat
  | .int => 2 ^ 32
  | .ext => 2 ^ cfg.extAddrBits

def isPowerOfTwo (n : Nat) : Bool := n != 0 && 2 ^ n.log2 == n

/-- The scalar constraints of 00_scope R10. -/
def Config.parametersOk (cfg : Config) : Bool :=
  Nat.ble 24 cfg.extAddrBits && Nat.ble cfg.extAddrBits 32
  && Nat.ble 2 cfg.dreqDepth
  && Nat.ble 1 cfg.dmaCountBits && Nat.ble cfg.dmaCountBits 32
  && Nat.ble 2 cfg.fbBankBytes && cfg.fbBankBytes % 2 == 0
  && Nat.ble 2 cfg.sdramBytes
  && isPowerOfTwo cfg.romBankBytes
  && Nat.ble 1 cfg.pwmDepth
  && Nat.ble 1 cfg.pwmSampleBits && Nat.ble cfg.pwmSampleBits 16
  && cfg.pwmPeriodTable.all (fun p => Nat.ble 1 p.2)

/-- `lo` is even, `hi` is odd, and `lo <= hi` (20_memory R84). -/
def Entry.rangeOk (e : Entry) : Bool := e.lo % 2 == 0 && e.hi % 2 == 1 && Nat.ble e.lo e.hi

/-- The number of bytes of an entry's range. -/
def Entry.bytes (e : Entry) : Nat := e.hi + 1 - e.lo

/-- The bus, the condition and the size of an entry fit its target (assumption 8): a condition belongs
to its bus (20_memory R86, R87), `BOOT` and `CACHE` need their own condition (41_bus_decoder R216,
R222), SDRAM is on the internal bus only (10_state R59), a register entry has two bytes and the
palette 512 (30_encoding R129), a RAM window is inside its array. -/
def Entry.targetOk (cfg : Config) (e : Entry) : Bool :=
  (match e.bus, e.cond with
    | .int, .always => true
    | .int, .boot _ => true
    | .int, .cache _ => true
    | .int, _ => false
    | .ext, .always => true
    | .ext, .aden => true
    | .ext, .noaden => true
    | .ext, _ => false)
  && (match e.target with
    | .reg .palette => e.bytes == 512
    | .reg _ => e.bytes == 2
    | .boot => (match e.cond with | .boot _ => true | _ => false)
    | .cache => (match e.cond with | .cache _ => true | _ => false) && Nat.ble e.bytes 4096
    | .sdram => (match e.bus with | .int => true | .ext => false) && Nat.ble e.bytes cfg.sdramBytes
    | .dram => Nat.ble e.bytes cfg.fbBankBytes
    | _ => true)

/-- A register entry is on a bus where its register has a view (30_encoding R127). -/
def Entry.viewOk (e : Entry) : Bool :=
  match e.target with
  | .reg r =>
    match viewOf r e.bus .read, viewOf r e.bus .write with
    | .none, _ => false
    | _, .none => false
    | _, _ => true
  | _ => true

/-- The two conditions can hold together for one requester under some state (20_memory R86, R87). -/
def Cond.compatible : Cond → Cond → Bool
  | .boot c, .boot d => c == d
  | .boot c, .cache d => c == d
  | .cache c, .boot d => c == d
  | .cache c, .cache d => c == d
  | .aden, .noaden => false
  | .noaden, .aden => false
  | _, _ => true

/-- Two entries of equal size both match some address under some state (20_memory R84). -/
def Entry.clash (cfg : Config) (e f : Entry) : Bool :=
  Nat.ble e.lo f.hi && Nat.ble f.lo e.hi && e.bytes == f.bytes && e.bus == f.bus
  && Nat.blt (Nat.max e.lo f.lo) (cfg.busSpace e.bus) && Cond.compatible e.cond f.cond

/-- No two entries clash. -/
def unambiguous (cfg : Config) : List Entry → Bool
  | [] => true
  | e :: es => es.all (fun f => !e.clash cfg f) && unambiguous cfg es

/-- A one-bit field. -/
def bitAt (p : Nat) : BitField := { lo := p, width := 1 }

/-- Every field lies in the 16 bits of its register, and no two overlap (30_encoding R131).
DESIGN CHOICE (assumption 29): every field has at least one bit. The spec gives `FP_BANK_BITS` and the
other widths no lower bound; a field of width 0 is refused. -/
def fieldsDisjoint : List BitField → Bool
  | [] => true
  | f :: fs =>
    Nat.ble 1 f.width && Nat.ble (f.lo + f.width) 16
    && fs.all (fun g => Nat.ble (f.lo + f.width) g.lo || Nat.ble (g.lo + g.width) f.lo)
    && fieldsDisjoint fs

/-- The fields of `INT_MASK`; VRES may have no position (30_encoding R131). -/
def FieldPos.intMaskFields (p : FieldPos) : List BitField :=
  [bitAt p.enPwm, bitAt p.enCmd, bitAt p.enHint, bitAt p.enVint, bitAt p.imAden, bitAt p.imFm]
  ++ (match p.enVres with | some q => [bitAt q] | none => [])

/-- The named fields do not overlap within a register, and a PWM mode field has two bits
(30_encoding R131, R133). -/
def FieldPos.ok (p : FieldPos) : Bool :=
  fieldsDisjoint [bitAt p.aden, bitAt p.res, bitAt p.fm]
  && fieldsDisjoint [p.bank]
  && fieldsDisjoint p.intMaskFields
  && fieldsDisjoint [bitAt p.dreqActive, bitAt p.dreqFull]
  && fieldsDisjoint [bitAt p.fs]
  && fieldsDisjoint [p.fillLen]
  && fieldsDisjoint [p.pwmLmode, p.pwmRmode, bitAt p.pwmDreqIrq, p.pwmTm]
  && p.pwmLmode.width == 2 && p.pwmRmode.width == 2

/-- The obligations of 43_framebuffer_arbiter R270: outside blanking the palette is engaged, and
without `FM` the framebuffer too. -/
def Config.engagementOk (cfg : Config) : Bool :=
  cfg.engagedFb.contains { vb := false, hb := false, fm := false }
  && cfg.engagedPal.contains { vb := false, hb := false, fm := false }
  && cfg.engagedPal.contains { vb := false, hb := false, fm := true }

/-- The first constraint the configuration breaks, if any (60_exceptions R337). -/
def Config.problem (cfg : Config) : Option ConfigError :=
  if !cfg.parametersOk then some .parameter
  else if !cfg.addrMap.all Entry.rangeOk then some .entryRange
  else if !cfg.addrMap.all (Entry.targetOk cfg) then some .entryTarget
  else if !cfg.addrMap.all Entry.viewOk then some .noView
  else if !unambiguous cfg cfg.addrMap then some .ambiguous
  else if !cfg.fields.ok then some .fields
  else if !cfg.engagementOk then some .engagement
  else none

end Sys2Proof
end

