-- ==== Sys2Proof/Machine/State.lean ====
section
/-! DEFINITION. The state of the block (10_state) as plain data, its faults and refusals, and the state
after power-on (10_state R70). -/

namespace Sys2Proof.Machine

/-- The faults of 60_exceptions R335. A fault ends the run and changes nothing but the mark. All are
the spec's own; stopping where the spec says the source gives no meaning is safe. -/
inductive Fault where
  /-- A bus call at an odd address (20_memory R83), or a drain to an odd destination
  (42_dreq_bridge R248). Safe. -/
  | misalignedCall
  /-- A bus call that selects no lane (20_memory R83). Safe. -/
  | noLane
  /-- An agent the tag does not admit (30_encoding R122); raised by every transaction. Safe. -/
  | badAgent (op : BitVec 8) (ag : Agent)
  /-- An `F` cell of the register table (20_memory R93); raised by bus calls and drains. Safe. -/
  | unmodelled (r : Reg) (bus : Bus) (dir : Dir)
  /-- Arming with length 0, or writing length 0 while active (42_dreq_bridge R240, R243). Safe. -/
  | dreqArmZeroLength
  /-- A drain by an enabled channel whose count is 0 (42_dreq_bridge R248). Safe. -/
  | dmaZeroCount
  /-- An autofill at an odd start (43_framebuffer_arbiter R286). Safe. -/
  | misalignedFill
  /-- An autofill that would pass the end of the bank (43_framebuffer_arbiter R286). Safe. -/
  | fillOutOfBank
  deriving DecidableEq, Repr

/-- The refusals of 60_exceptions R337. -/
inductive Refusal where
  /-- An instruction that has no meaning yet; raised by `exec`. Safe. No arm of this model uses it. -/
  | notModelled (mnemonic : String)
  /-- A word the decoder refuses (30_encoding R130); raised by `step`. Safe. -/
  | badWord (why : Reject)
  /-- An ill-formed configuration, refused before any transaction runs; raised by `step`. Safe. -/
  | badConfig (why : ConfigError)
  deriving DecidableEq, Repr

/-- Why a transaction holds (60_exceptions R336). -/
inductive Hold where
  | writeEngaged (c : CoreId) (res : Resource)
  | fillBusy (c : CoreId)
  deriving DecidableEq, Repr

/-- The (enable, active) bits of one source on one core (10_state R31). -/
structure LatchPair where
  enable : Bool
  active : Bool
  deriving DecidableEq, Repr

/-- The latch pairs of the four sources that both cores have. -/
structure Maskable where
  vint : LatchPair
  hint : LatchPair
  cmd  : LatchPair
  pwm  : LatchPair
  deriving DecidableEq, Repr

/-- The interrupt blocks `s.ib` of 10_state R31. VRES exists only on the Slave (R32), so it has one
pair and the Master none. -/
structure IntRouter where
  m    : Maskable
  s    : Maskable
  vres : LatchPair
  deriving DecidableEq, Repr

/-- One DMA channel (10_state R34). `count` is a `u(DMA_COUNT_BITS)` held in 32 bits. -/
structure DmaChannel where
  src      : Addr
  dst      : Addr
  count    : Addr
  autoInc  : BitVec 2
  size     : BitVec 2
  enable   : Bool
  complete : Bool
  deriving DecidableEq, Repr

/-- A core's autofill in flight (10_state R51). -/
structure Fill where
  addr : Nat
  left : Nat
  data : Half
  deriving DecidableEq, Repr

/-- One field of the serialization walk (10_state R72). -/
inductive WalkItem where
  | half (v : Half)
  | word (v : Addr)
  | pair (v : BitVec 2)
  | flag (b : Bool)
  | count (n : Nat)
  | queue (q : List Half)
  | fill (f : Option Fill)
  | bytes (m : Memory)
  | colors (m : Mem 9)
  deriving DecidableEq, Repr

/-- What `serialize` hands over: the bytes of the stream, or a walk that the format leaves unencoded. A
byte format of 00_scope R10 gives bytes for every walk (assumption 15). -/
inductive Stream where
  | bytes (b : List Byte)
  | unencoded (w : List WalkItem)
  deriving DecidableEq, Repr

end Sys2Proof.Machine

/-- `SERIAL_FORMAT` (00_scope R10), for each number of a format: a walk goes to the stream that the format
writes for it. It is one to one, so it round-trips; nothing else constrains it (assumption 15). -/
opaque Sys2Proof.Config.serialCode : Nat → Equiv.Perm Sys2Proof.Machine.Stream

namespace Sys2Proof.Machine

/-- Why a write was dropped (10_state R63). -/
inductive DropReason where
  | fifoInactiveOrFull
  | pwmFifoFull (side : Side)
  deriving DecidableEq, Repr

/-- The events of the log (10_state R63, 42_dreq_bridge R252, 70_reset R366). -/
inductive Event where
  /-- An interrupt delivered: the callout `raiseException(c, vector)` (40_interrupt_router R168). -/
  | exception (c : CoreId) (src : Source) (vector : Nat)
  | unmapped (bus : Bus) (ag : Agent) (a : Addr) (dir : Dir)
  | droppedWrite (why : DropReason) (ag : Agent) (a : Addr)
  | read (ag : Agent) (a : Addr) (v : Half)
  /-- `Read(c, DMA(ch, field), value)` of 42_dreq_bridge R252. -/
  | readDma (c : CoreId) (ch : Channel) (field : DmaField) (v : Addr)
  /-- The callout `serialize(walk(s))` of 70_reset R366: the walk, and the stream it is written as. -/
  | serialized (w : List WalkItem) (stream : Stream)
  deriving DecidableEq, Repr

/-- What the block answers to a transaction: the value it returns (00_scope R15, R8), or its hold. -/
inductive Reply where
  /-- Completed without a value. -/
  | done
  /-- The 16-bit result of a bus read. -/
  | value (v : Half)
  /-- The field value `DMARD` returns. -/
  | dmaValue (v : Addr)
  /-- `Interrupt(src)`: the poll delivered it (40_interrupt_router R168). -/
  | interrupt (src : Source)
  /-- `Drained(ch)` (42_dreq_bridge R248). -/
  | drained (ch : Channel)
  /-- `NoDrain` (42_dreq_bridge R248). -/
  | noDrain
  /-- The transaction holds: it has no step in this state (60_exceptions R336). -/
  | held (h : Hold)
  deriving DecidableEq, Repr

/-- The state of the block. The fields from `cfg` down to `refused` are the spec's; `script`, `turns`,
`reply` and `draws` are the model's own (assumptions 1, 2, 4 and 11). -/
@[ext]
structure State where
  /-- The configuration (10_state R60), which no transaction writes. -/
  cfg           : Config
  ib            : IntRouter
  dma           : PerCore (PerChannel DmaChannel)
  /-- The latches of 10_state R35, in register-id order; read and written by latch name only. -/
  regs          : Vector Half 27
  fifo          : List Half
  remaining     : Half
  dreq          : PerCore Bool
  dram          : PerBank Memory
  palette       : Mem 9
  fill          : PerCore (Option Fill)
  fillAddrDirty : Bool
  vblank        : Bool
  hblank        : Bool
  pwmFifo       : PerSide (List Half)
  pwmOut        : PerSide Half
  divCount      : Nat
  periodCount   : Nat
  bootMapped    : PerCore Bool
  cacheEn       : PerCore Bool
  cacheRam      : PerCore Memory
  sdram         : Memory
  /-- Oldest event first. -/
  log           : List Event
  fault         : Option Fault
  refused       : Option Refusal
  /-- The transactions not yet completed, of all agents; those of one agent stand in its program
  order. -/
  script        : List TxnWord
  /-- Which agents take the next steps; when it is empty, `Config.freeTurn` chooses. -/
  turns         : List Agent
  /-- What the last step answered, and to which agent. -/
  reply         : Option (Agent × Reply)
  /-- How many free values have been drawn. -/
  draws         : Nat
  deriving DecidableEq, Repr

def LatchPair.clear : LatchPair := { enable := false, active := false }

def Maskable.clear : Maskable :=
  { vint := LatchPair.clear, hint := LatchPair.clear, cmd := LatchPair.clear, pwm := LatchPair.clear }

def IntRouter.clear : IntRouter :=
  { m := Maskable.clear, s := Maskable.clear, vres := LatchPair.clear }

def DmaChannel.clear : DmaChannel :=
  { src := 0#32, dst := 0#32, count := 0#32, autoInc := 0#2, size := 0#2, enable := false, complete := false }

/-- One value for both cores. -/
def both {α : Type} (v : α) : PerCore α := { m := v, s := v }

/-- The state after power-on (10_state R70, 70_reset R360), with the default configuration (assumption
6), every memory listing nothing (assumption 9) and no transaction loaded (assumption 1). -/
def State.reset : State :=
  { cfg := Config.default
    ib := IntRouter.clear
    dma := both { c0 := DmaChannel.clear, c1 := DmaChannel.clear }
    regs := Vector.replicate 27 0#16
    fifo := []
    remaining := 0#16
    dreq := both false
    dram := { b0 := [], b1 := [] }
    palette := []
    fill := both none
    fillAddrDirty := false
    vblank := false
    hblank := false
    pwmFifo := { left := [], right := [] }
    pwmOut := { left := 0#16, right := 0#16 }
    divCount := 0
    periodCount := 0
    bootMapped := both true
    cacheEn := both false
    cacheRam := both []
    sdram := []
    log := []
    fault := none
    refused := none
    script := []
    turns := []
    reply := none
    draws := 0 }

end Sys2Proof.Machine
end

