-- ==== Sys2Proof/Machine/Operands.lean ====
section
/-! DEFINITION. The operand forms: byte lanes and their merge, bits and fields of a half-word, cells of a
memory, and the one home of every register, latch and channel (00_scope R12 to R14, 10_state R31 to
R35, 20_memory R82). -/

namespace Sys2Proof.Machine

/-- The byte lanes a bus call selects: `u` is bits 15:8, `l` is bits 7:0 (20_memory R81). -/
structure Lanes where
  u : Bool
  l : Bool
  deriving DecidableEq, Repr

/-- Both lanes. -/
def Lanes.full : Lanes := { u := true, l := true }

/-- `v[15:8]`. -/
def upperByte (v : Half) : Byte := v.extractLsb' 8 8

/-- `v[7:0]`. -/
def lowerByte (v : Half) : Byte := v.extractLsb' 0 8

/-- `merge16(old, new, U, L)` (00_scope R14). -/
def merge16 (old new : Half) (ln : Lanes) : Half :=
  (if ln.u then upperByte new else upperByte old) ++ (if ln.l then lowerByte new else lowerByte old)

/-- The lane that holds bit `p` is selected (`covers(p)` of 42_dreq_bridge, 40_interrupt_router R179). -/
def Lanes.covers (ln : Lanes) (p : Nat) : Bool := if 8 ≤ p then ln.u else ln.l

/-- `v` with bit `p` set to `b`. -/
def putBit (v : Half) (p : Nat) (b : Bool) : Half :=
  if b then v ||| (1#16 <<< p) else v &&& ~~~(1#16 <<< p)

/-- `trunc_n(v)` held in 16 bits (00_scope R12; assumption 19). -/
def truncTo (n : Nat) (v : Half) : Half := BitVec.ofNat 16 (v.toNat % 2 ^ n)

/-- The cell at `a`; an address that is not listed reads as zero (assumption 9). -/
def Mem.get {w : Nat} (m : Mem w) (a : Nat) : BitVec w :=
  match m with
  | [] => 0#w
  | (b, v) :: t => if b = a then v else Mem.get t a

/-- `m` without an entry for `a`. -/
def Mem.erase {w : Nat} (m : Mem w) (a : Nat) : Mem w :=
  match m with
  | [] => []
  | (b, v) :: t => if b = a then Mem.erase t a else (b, v) :: Mem.erase t a

/-- `m` with the entry `(a, v)` in its place in the rising order. -/
def Mem.insert {w : Nat} (m : Mem w) (a : Nat) (v : BitVec w) : Mem w :=
  match m with
  | [] => [(a, v)]
  | (b, x) :: t =>
    if a < b then (a, v) :: (b, x) :: t
    else if a = b then (a, v) :: t
    else (b, x) :: Mem.insert t a v

/-- Write one cell; writing what an unlisted address reads as removes the entry. -/
def Mem.set {w : Nat} (m : Mem w) (a : Nat) (v : BitVec w) : Mem w :=
  if v = 0#w then Mem.erase m a else Mem.insert m a v

/-- Every address of `m` is above `lo`, strictly rising, and no entry is zero. -/
def Mem.wfFrom {w : Nat} (lo : Nat) (m : Mem w) : Bool :=
  match m with
  | [] => true
  | (a, v) :: t => Nat.ble lo a && v != 0#w && Mem.wfFrom (a + 1) t

/-- The canonical form: addresses strictly rising, no entry equal to what an unlisted address reads as. -/
def Mem.wf {w : Nat} (m : Mem w) : Bool := Mem.wfFrom 0 m

/-- Every listed address is below `n`. -/
def Mem.below {w : Nat} (n : Nat) (m : Mem w) : Bool := m.all (fun p => Nat.blt p.1 n)

/-- A memory of `n` cells with the contents of a list of pairs. -/
def Mem.ofCells {w : Nat} (n : Nat) (cells : Mem w) : Mem w :=
  cells.foldl (fun m p => if p.1 < n then Mem.set m p.1 p.2 else m) []

/-- `MemRead(m, a, 2)`: the byte at `a` is the most significant (00_scope R14, 20_memory R82). -/
def memHalf (m : Memory) (a : Nat) : Half := Mem.get m a ++ Mem.get m (a + 1)

/-- Write the selected lanes of `v` at `a` and `a + 1` (20_memory R89). -/
def memWrite (m : Memory) (a : Nat) (ln : Lanes) (v : Half) : Memory :=
  let m1 := if ln.u then Mem.set m a (upperByte v) else m
  if ln.l then Mem.set m1 (a + 1) (lowerByte v) else m1

/-- The half-word of a ROM image at `off`; none at or beyond its end (20_memory R91). -/
def Image.half (img : Image) (off : Nat) : Option Half :=
  if off + 1 < img.size then some (memHalf img.cells off) else none

/-- Where a latch stands in `State.regs`: the register-id order of 30_encoding R127. -/
def Latch.index : Latch → Fin 27
  | .adapterCtrl => 0
  | .bankSelect => 1
  | .dreqCtrl => 2
  | .dreqSrcHi => 3
  | .dreqSrcLo => 4
  | .dreqDstHi => 5
  | .dreqDstLo => 6
  | .dreqLen => 7
  | .dreqFifo => 8
  | .comm n => ⟨n.val + 9, by omega⟩
  | .pwmCtrl => 17
  | .pwmCycle => 18
  | .pwmLeft => 19
  | .pwmRight => 20
  | .pwmMono => 21
  | .vdpMode => 22
  | .fillLen => 23
  | .fillAddr => 24
  | .fillData => 25
  | .fbCtrl => 26

/-- `s.reg[r]` (10_state R35). -/
def State.reg (s : State) (l : Latch) : Half := s.regs[(Latch.index l).val]

/-- `s.reg[r] <- v`. -/
def State.setReg (s : State) (l : Latch) (v : Half) : State :=
  { s with regs := s.regs.set (Latch.index l).val v }

/-- The register ids of 30_encoding R127. -/
def Reg.id : Reg → Nat
  | .latch .adapterCtrl => 0x00
  | .latch .bankSelect => 0x01
  | .intMask => 0x02
  | .intClr .vres => 0x03
  | .intClr .vint => 0x04
  | .intClr .hint => 0x05
  | .intClr .cmd => 0x06
  | .intClr .pwm => 0x07
  | .latch .dreqCtrl => 0x08
  | .latch .dreqSrcHi => 0x09
  | .latch .dreqSrcLo => 0x0A
  | .latch .dreqDstHi => 0x0B
  | .latch .dreqDstLo => 0x0C
  | .latch .dreqLen => 0x0D
  | .latch .dreqFifo => 0x0E
  | .latch (.comm n) => 0x10 + n.val
  | .latch .pwmCtrl => 0x18
  | .latch .pwmCycle => 0x19
  | .latch .pwmLeft => 0x1A
  | .latch .pwmRight => 0x1B
  | .latch .pwmMono => 0x1C
  | .latch .vdpMode => 0x20
  | .latch .fillLen => 0x21
  | .latch .fillAddr => 0x22
  | .latch .fillData => 0x23
  | .latch .fbCtrl => 0x24
  | .palette => 0x30

/-- The pair of a maskable source; VRES has none here. -/
def Maskable.get (k : Maskable) : Source → LatchPair
  | .vres => LatchPair.clear
  | .vint => k.vint
  | .hint => k.hint
  | .cmd => k.cmd
  | .pwm => k.pwm

/-- Write the pair of a maskable source; for VRES nothing is written. -/
def Maskable.set (k : Maskable) (src : Source) (p : LatchPair) : Maskable :=
  match src with
  | .vres => k
  | .vint => { k with vint := p }
  | .hint => { k with hint := p }
  | .cmd => { k with cmd := p }
  | .pwm => { k with pwm := p }

/-- The pair of a source on a core. The Master has no VRES pair: it reads as false (10_state R32). -/
def IntRouter.get (r : IntRouter) (c : CoreId) (src : Source) : LatchPair :=
  match c, src with
  | .m, src => r.m.get src
  | .s, .vres => r.vres
  | .s, src => r.s.get src

/-- Write the pair of a source on a core; on the Master's VRES the write has no effect (10_state R32). -/
def IntRouter.set (r : IntRouter) (c : CoreId) (src : Source) (p : LatchPair) : IntRouter :=
  match c, src with
  | .m, src => { r with m := r.m.set src p }
  | .s, .vres => { r with vres := p }
  | .s, src => { r with s := r.s.set src p }

/-- `s.ib[c][src]`. -/
def State.latch (s : State) (c : CoreId) (src : Source) : LatchPair := s.ib.get c src

/-- `s.ib[c][src].active <- v`. -/
def State.setActive (s : State) (c : CoreId) (src : Source) (v : Bool) : State :=
  { s with ib := s.ib.set c src { s.ib.get c src with active := v } }

/-- `s.ib[c][src].enable <- v`. -/
def State.setEnableBit (s : State) (c : CoreId) (src : Source) (v : Bool) : State :=
  { s with ib := s.ib.set c src { s.ib.get c src with enable := v } }

/-- `s.dma[c][ch]`. -/
def State.chan (s : State) (c : CoreId) (ch : Channel) : DmaChannel := (s.dma.get c).get ch

/-- `s.dma[c][ch] <- k`. -/
def State.setChan (s : State) (c : CoreId) (ch : Channel) (k : DmaChannel) : State :=
  { s with dma := s.dma.set c ((s.dma.get c).set ch k) }

/-- `s.fill[c] <- f`. -/
def State.setFill (s : State) (c : CoreId) (f : Option Fill) : State :=
  { s with fill := s.fill.set c f }

/-- `s.dram[b] <- m`. -/
def State.setDram (s : State) (b : Bank) (m : Memory) : State :=
  { s with dram := s.dram.set b m }

/-- `s.palette[i] <- v`. -/
def State.setColor (s : State) (i : Nat) (v : Color) : State :=
  { s with palette := Mem.set s.palette i v }

/-- `s.cacheRam[c] <- m`. -/
def State.setCacheRam (s : State) (c : CoreId) (m : Memory) : State :=
  { s with cacheRam := s.cacheRam.set c m }

/-- Append an event to `s.log` (10_state R63). -/
def State.addLog (s : State) (e : Event) : State := { s with log := s.log ++ [e] }

/-- `draw(16)`: the next free value, and the state after the draw (00_scope R15). -/
def State.drawHalf (s : State) : Half × State :=
  (Config.freeHalf s.draws, { s with draws := s.draws + 1 })

/-- The field values of a channel, `ctrl` packed as 30_encoding R126 says. -/
def DmaChannel.field (k : DmaChannel) : DmaField → Addr
  | .src => k.src
  | .dst => k.dst
  | .count => k.count
  | .ctrl => 0#26 ++ k.autoInc ++ k.size ++ BitVec.ofBool k.complete ++ BitVec.ofBool k.enable

/-- Program one field of a channel (42_dreq_bridge R251). -/
def DmaChannel.program (k : DmaChannel) (f : DmaField) (v : Addr) : DmaChannel :=
  match f with
  | .src => { k with src := v }
  | .dst => { k with dst := v }
  | .count => { k with count := v }
  | .ctrl =>
    { k with
      enable := v.getLsbD 0
      complete := v.getLsbD 1
      size := v.extractLsb' 2 2
      autoInc := v.extractLsb' 4 2 }

end Sys2Proof.Machine
end

