-- ==== Sys2Proof/Machine/Flags.lean ====
section
/-! DEFINITION. The status conditions of the block (10_state R66), each computed from the state and none
stored: pending, `active`, `full`, engagement, the selected and the access bank, the adapter gate. -/

namespace Sys2Proof.Machine

/-- `pending(c, src)` (40_interrupt_router R162). -/
def State.pending (s : State) (c : CoreId) (src : Source) : Bool :=
  (s.latch c src).active && (s.latch c src).enable

/-- The sources in priority order (40_interrupt_router R161). -/
def allSources : List Source := [.vres, .vint, .hint, .cmd, .pwm]

/-- The router's output `anyPending(c)` (40_interrupt_router R162). -/
def State.anyPending (s : State) (c : CoreId) : Bool := allSources.any (s.pending c)

/-- `active`: a DREQ transfer is armed (10_state R41). -/
def State.dreqActive (s : State) : Bool := (s.reg .dreqCtrl).getLsbD s.cfg.fields.dreqActive

/-- `full` of the DREQ FIFO (10_state R43). -/
def State.fifoFull (s : State) : Bool := s.fifo.length == s.cfg.dreqDepth

/-- `ADEN` (10_state R37). -/
def State.aden (s : State) : Bool := (s.reg .adapterCtrl).getLsbD s.cfg.fields.aden

/-- `FM` (10_state R37). -/
def State.fm (s : State) : Bool := (s.reg .adapterCtrl).getLsbD s.cfg.fields.fm

/-- The inputs of engagement (43_framebuffer_arbiter R270). -/
def State.raster (s : State) : Raster := { vb := s.vblank, hb := s.hblank, fm := s.fm }

/-- `ENGAGED_FB(s)` (43_framebuffer_arbiter R270). -/
def State.engagedFb (s : State) : Bool := s.cfg.engagedFb.contains s.raster

/-- `ENGAGED_PAL(s)` (43_framebuffer_arbiter R270). -/
def State.engagedPal (s : State) : Bool := s.cfg.engagedPal.contains s.raster

/-- Engagement of a resource. -/
def State.engaged (s : State) : Resource → Bool
  | .fb => s.engagedFb
  | .pal => s.engagedPal

/-- The selected bank `sel`, which the raster shows (10_state R52). -/
def State.sel (s : State) : Bank :=
  if (s.reg .fbCtrl).getLsbD s.cfg.fields.fs then .b1 else .b0

/-- The access bank `acc = 1 - sel` (10_state R52). -/
def State.acc (s : State) : Bank := s.sel.other

/-- The contents of the access bank. -/
def State.accDram (s : State) : Memory := s.dram.get s.acc

/-- The bank the host raster reads (43_framebuffer_arbiter R272, R287; 00_scope R8). -/
def State.shownBank (s : State) : Memory := s.dram.get s.sel

/-- The number of half-words a fill writes: `FILL_LEN`'s field plus one (43_framebuffer_arbiter R281). -/
def State.fillCount (s : State) : Nat := s.cfg.fields.fillLen.read (s.reg .fillLen) + 1

/-- The divider length `C` (44_pwm R301). -/
def State.pwmClocks (s : State) : Nat := s.cfg.pwmCycleClocks (s.reg .pwmCycle)

/-- The period `P` (44_pwm R307). -/
def State.pwmPeriod (s : State) : Nat := s.cfg.pwmPeriod (s.cfg.fields.pwmTm.read (s.reg .pwmCtrl))

/-- The mode of a PWM channel (44_pwm R308). -/
def State.pwmMode (s : State) (side : Side) : PwmMode := s.cfg.pwmMode (s.reg .pwmCtrl) side

/-- `DREQIRQ` (44_pwm R300). -/
def State.dreqIrq (s : State) : Bool := (s.reg .pwmCtrl).getLsbD s.cfg.fields.pwmDreqIrq

end Sys2Proof.Machine
end

