-- ==== Sys2Proof/Machine/Ops.lean ====
section
/-! DEFINITION. The shared operations: the four outcomes of a transaction (00_scope R15), the interrupt
router (40_interrupt_router R160 to R171), the bus decoder and its targets (20_memory R84 to R93,
41_bus_decoder R205, R206), the register rules, the scripts and turns. -/

namespace Sys2Proof.Machine

/-- The outcome of a transaction's effect (00_scope R15). -/
inductive Result (α : Type) where
  | done (a : α)
  | held (h : Hold)
  | fault (r : Fault)
  | refused (r : Refusal)
  deriving Repr

def Result.bind {α β : Type} (r : Result α) (f : α → Result β) : Result β :=
  match r with
  | .done a => f a
  | .held h => .held h
  | .fault e => .fault e
  | .refused e => .refused e

def Result.map {α β : Type} (r : Result α) (f : α → β) : Result β :=
  match r with
  | .done a => .done (f a)
  | .held h => .held h
  | .fault e => .fault e
  | .refused e => .refused e

/-- Who uses a bus: the host the external one, a core the internal one (20_memory R81). -/
inductive Port where
  | ext
  | int (c : CoreId)
  deriving DecidableEq, Repr

def Port.bus : Port → Bus
  | .ext => .ext
  | .int _ => .int

def Port.agent : Port → Agent
  | .ext => .host
  | .int c => .core c

/-! ## Interrupt router -/

/-- `LEVEL(src)` (40_interrupt_router R161). -/
def levelOf : Source → Nat
  | .vres => 14
  | .vint => 12
  | .hint => 10
  | .cmd => 8
  | .pwm => 6

/-- `VECTOR(src)` (40_interrupt_router R161). -/
def vectorOf : Source → Nat
  | .vres => 71
  | .vint => 70
  | .hint => 69
  | .cmd => 68
  | .pwm => 67

/-- `applies(src)` (40_interrupt_router R160). -/
def appliesTo : Source → List CoreId
  | .vres => [.s]
  | .vint => [.m, .s]
  | .hint => [.m, .s]
  | .cmd => [.m, .s]
  | .pwm => [.m, .s]

/-- `raise(src)` (40_interrupt_router R163). -/
def raiseSource (src : Source) (s : State) : State :=
  (appliesTo src).foldl (fun t c => t.setActive c src true) s

/-- `acknowledge(c, src)` (40_interrupt_router R164). -/
def acknowledge (c : CoreId) (src : Source) (s : State) : State := s.setActive c src false

/-- `setEnable(c, src, v)` (40_interrupt_router R165). -/
def setEnable (c : CoreId) (src : Source) (v : Bool) (s : State) : State := s.setEnableBit c src v

/-- The first source of a list that is pending on `c` with a level above the mask
(40_interrupt_router R168, step 2). -/
def firstEligible (c : CoreId) (m : BitVec 4) (s : State) : List Source → Option Source
  | [] => none
  | src :: rest =>
    if s.pending c src && Nat.blt m.toNat (levelOf src) then some src
    else firstEligible c m s rest

/-- The source a poll delivers: VRES on the Slave whatever the mask is, else the first eligible
maskable source (40_interrupt_router R168 to R171). -/
def pollChoice (c : CoreId) (m : BitVec 4) (s : State) : Option Source :=
  if c = .s ∧ s.pending .s .vres then some .vres
  else firstEligible c m s [.vint, .hint, .cmd, .pwm]

/-- TAKING AN EXCEPTION: deliver `src` to core `c`. VRES clears its own active latch (R169), a maskable
source keeps it (R170); the callout `raiseException(c, VECTOR(src))` is recorded. The block saves
nothing and changes nothing else in the core, and it has no return (60_exceptions R331 to R333). -/
def deliver (c : CoreId) (src : Source) (s : State) : State :=
  (match src with
    | .vres => s.setActive c .vres false
    | .vint => s
    | .hint => s
    | .cmd => s
    | .pwm => s).addLog (.exception c src (vectorOf src))

/-! ## DREQ FIFO and PWM FIFOs -/

/-- `republish()` (42_dreq_bridge R247). -/
def republish (s : State) : State := { s with dreq := both (!s.fifo.isEmpty) }

/-- The FIFO replaced, and republished. -/
def setFifo (q : List Half) (s : State) : State := republish { s with fifo := q }

/-- Push one sample into a PWM FIFO, or drop and log it (44_pwm R302). -/
def pushSample (p : Port) (a : Addr) (side : Side) (w : Half) (s : State) : State :=
  if (s.pwmFifo.get side).length < s.cfg.pwmDepth then
    { s with
      pwmFifo :=
        s.pwmFifo.set side (s.pwmFifo.get side ++ [truncTo s.cfg.pwmSampleBits w]) }
  else s.addLog (.droppedWrite (.pwmFifoFull side) p.agent a)

/-! ## Address decoding -/

/-- `holds(cond, s, c)` (20_memory R84, R86, R87). -/
def condHolds (p : Port) (s : State) : Cond → Bool
  | .always => true
  | .boot c => p == .int c && s.bootMapped.get c
  | .cache c => p == .int c && s.cacheEn.get c
  | .aden => s.aden
  | .noaden => !s.aden

/-- The address after reduction to the bus's width (20_memory R84, R104). -/
def busAddr (cfg : Config) (p : Port) (a : Addr) : Nat :=
  match p with
  | .ext => a.toNat % 2 ^ cfg.extAddrBits
  | .int _ => a.toNat

/-- The entry is a candidate of the access (20_memory R84). -/
def entryMatches (p : Port) (a : Nat) (s : State) (e : Entry) : Bool :=
  Nat.ble e.lo a && Nat.ble a e.hi && e.bus == p.bus && condHolds p s e.cond

/-- The candidate with the least `hi - lo` (20_memory R84). -/
def bestEntry (p : Port) (a : Nat) (s : State) : List Entry → Option Entry
  | [] => none
  | e :: rest =>
    match entryMatches p a s e with
    | false => bestEntry p a s rest
    | true =>
      match bestEntry p a s rest with
      | none => some e
      | some f => if e.hi - e.lo ≤ f.hi - f.lo then some e else some f

/-- `decode(bus, a, c)`: the target and the offset into it, or none where unmapped (20_memory R84). -/
def decodeAddr (p : Port) (a : Addr) (s : State) : Option (Target × Nat) :=
  match bestEntry p (busAddr s.cfg p a) s s.cfg.addrMap with
  | none => none
  | some e => some (e.target, busAddr s.cfg p a - e.lo)

/-! ## Reads -/

/-- The ROM offset that the `ROMBANK` window shows at `off` (41_bus_decoder R218). -/
def bankedOffset (s : State) (off : Nat) : Nat :=
  s.cfg.fields.bank.read (s.reg .bankSelect) * s.cfg.romBankBytes + off

/-- The position of a source in `INT_MASK` (30_encoding R131). -/
def enablePos (f : FieldPos) : Source → Option Nat
  | .vres => f.enVres
  | .vint => some f.enVint
  | .hint => some f.enHint
  | .cmd => some f.enCmd
  | .pwm => some f.enPwm

/-- Show one enable of core `c` in an `INT_MASK` value. -/
def showEnable (c : CoreId) (s : State) (t : Half) (src : Source) : Half :=
  match enablePos s.cfg.fields src with
  | none => t
  | some p => putBit t p (s.latch c src).enable

/-- The `INT_MASK` value over a drawn half-word: the enables, `ADEN` and `FM` at their positions, every
other bit as drawn (40_interrupt_router R180). -/
def intMaskValue (c : CoreId) (s : State) (drawn : Half) : Half :=
  putBit (putBit (allSources.foldl (showEnable c s) drawn) s.cfg.fields.imAden s.aden)
    s.cfg.fields.imFm s.fm

/-- A read of a latched register (41_bus_decoder R205, R211 to R215; 42_dreq_bridge R241, R242, R244;
43_framebuffer_arbiter R280, R281; 44_pwm R300, R301, R304). -/
def readLatch (l : Latch) (s : State) : Half × State :=
  match l with
  | .dreqCtrl => (putBit (s.reg .dreqCtrl) s.cfg.fields.dreqFull s.fifoFull, s)
  | .pwmLeft => s.drawHalf
  | .pwmRight => s.drawHalf
  | .pwmMono => s.drawHalf
  | .fillAddr => if s.fillAddrDirty then s.drawHalf else (s.reg .fillAddr, s)
  | l => (s.reg l, s)

/-- The read rule of a register (20_memory R93; 30_encoding R127). -/
def regRead (p : Port) (r : Reg) (off : Nat) (s : State) : Result (Half × State) :=
  match viewOf r p.bus .read with
  | .none => .refused (.badConfig .noView)
  | .unmodelled => .fault (.unmodelled r p.bus .read)
  | .given =>
    match r, p with
    | .latch l, _ => .done (readLatch l s)
    | .intMask, .int c => .done (intMaskValue c s s.drawHalf.1, s.drawHalf.2)
    | .intMask, .ext => .refused (.badConfig .noView)
    | .intClr _, _ => .done s.drawHalf
    | .palette, _ => .done ((Mem.get s.palette (off / 2)).setWidth 16, s)

/-- A read of a per-core space, which only a core can reach. -/
def coreSpace (p : Port) (f : CoreId → Option Half) (s : State) : Result (Option Half × State) :=
  match p with
  | .int c => .done (f c, s)
  | .ext => .refused (.badConfig .entryTarget)

/-- `targetRead` (41_bus_decoder R205): the 16-bit value, or none where the read is unmapped
(20_memory R91). -/
def targetRead (p : Port) (t : Target) (off : Nat) (s : State) : Result (Option Half × State) :=
  match t with
  | .reg r => (regRead p r off s).map (fun x => (some x.1, x.2))
  | .boot => coreSpace p (fun c => Image.half (s.cfg.bootRom.get c) off) s
  | .progRom => .done (Image.half s.cfg.rom off, s)
  | .romFixed => .done (Image.half s.cfg.rom off, s)
  | .romBank => .done (Image.half s.cfg.rom (bankedOffset s off), s)
  | .vecRom => .done (Image.half s.cfg.vectorRom off, s)
  | .cart => .done (Image.half s.cfg.rom off, s)
  | .dram => .done (some (memHalf s.accDram off), s)
  | .sdram => .done (some (memHalf s.sdram off), s)
  | .cache => coreSpace p (fun c => some (memHalf (s.cacheRam.get c) off)) s

/-- A read that hit nothing: log it and give back `prior` (20_memory R90). -/
def unmappedRead (p : Port) (a : Addr) (prior : Half) (s : State) : Half × State :=
  (prior, s.addLog (.unmapped p.bus p.agent a .read))

/-- A bus read after its alignment and lane checks (41_bus_decoder R200, R202). -/
def busRead (p : Port) (ln : Lanes) (a : Addr) (prior : Half) (s : State) : Result (Half × State) :=
  match decodeAddr p a s with
  | none => .done (unmappedRead p a prior s)
  | some (t, off) =>
    (targetRead p t off s).map (fun x =>
      match x.1 with
      | none => unmappedRead p a prior x.2
      | some v => (merge16 prior v ln, x.2.addLog (.read p.agent a (merge16 prior v ln))))

/-! ## Writes -/

/-- A write by a core to the framebuffer or the palette holds while the resource is engaged; the host
is never held (43_framebuffer_arbiter R274, R275, R277, R278). -/
def gateWrite (p : Port) (res : Resource) (s : State) (after : State) : Result State :=
  match p with
  | .ext => .done after
  | .int c => if s.engaged res then .held (.writeEngaged c res) else .done after

/-- Set core `c`'s enables from an `INT_MASK` write: one source (40_interrupt_router R179). -/
def maskEnable (c : CoreId) (ln : Lanes) (v : Half) (s : State) (src : Source) : State :=
  match enablePos s.cfg.fields src with
  | none => s
  | some p => if ln.covers p then setEnable c src (v.getLsbD p) s else s

/-- A core's `INT_MASK` write (40_interrupt_router R179). -/
def writeIntMask (c : CoreId) (ln : Lanes) (v : Half) (s : State) : State :=
  allSources.foldl (maskEnable c ln v) s

/-- `DREQ_CTRL` with its new stored value; the `FULL` bit is computed on read and stored as 0. -/
def storeDreqCtrl (w : Half) (s : State) : State :=
  s.setReg .dreqCtrl (putBit w s.cfg.fields.dreqFull false)

/-- The host's `DREQ_CTRL` write: arm, disable or neither (42_dreq_bridge R240). -/
def writeDreqCtrl (ln : Lanes) (v : Half) (s : State) : Result State :=
  let w := merge16 (s.reg .dreqCtrl) v ln
  let p := s.cfg.fields.dreqActive
  if ln.covers p then
    if v.getLsbD p then
      if s.dreqActive then .done (storeDreqCtrl w s)
      else if s.reg .dreqLen = 0#16 then .fault .dreqArmZeroLength
      else .done (storeDreqCtrl w { s with remaining := s.reg .dreqLen })
    else .done (storeDreqCtrl w { s with fifo := [], dreq := both false })
  else .done (storeDreqCtrl w s)

/-- The host's `DREQ_LEN` write (42_dreq_bridge R243). -/
def writeDreqLen (w : Half) (s : State) : Result State :=
  if s.dreqActive ∧ w = 0#16 then .fault .dreqArmZeroLength
  else .done (setFifo [] { s.setReg .dreqLen w with remaining := w })

/-- `active` cleared once no word remains (42_dreq_bridge R245). -/
def dropActiveAtZero (s : State) : State :=
  if s.remaining = 0#16 then
    s.setReg .dreqCtrl (putBit (s.reg .dreqCtrl) s.cfg.fields.dreqActive false)
  else s

/-- The host's `DREQ_FIFO` write (42_dreq_bridge R245). -/
def writeDreqFifo (p : Port) (a : Addr) (w : Half) (s : State) : State :=
  let s1 := s.setReg .dreqFifo w
  if s1.dreqActive ∧ s1.fifo.length < s1.cfg.dreqDepth then
    setFifo (s1.fifo ++ [w]) (dropActiveAtZero { s1 with remaining := s1.remaining - 1#16 })
  else s1.addLog (.droppedWrite .fifoInactiveOrFull p.agent a)

/-- `checkFill(a0, n)` (43_framebuffer_arbiter R286). -/
def checkFill (bankBytes a0 n : Nat) : Option Fault :=
  if a0 % 2 = 1 then some .misalignedFill
  else if bankBytes < a0 + 2 * n then some .fillOutOfBank
  else none

/-- `n` half-words of `v` from `a` upward (43_framebuffer_arbiter R282). -/
def fillRun (m : Memory) (a : Nat) (v : Half) : Nat → Memory
  | 0 => m
  | n + 1 => fillRun (memWrite m a Lanes.full v) (a + 2) v n

/-- A write to `FILL_DATA`: the host's runs the whole fill (43_framebuffer_arbiter R282), a core's starts
a fill in flight (R283). -/
def writeFillData (p : Port) (w : Half) (s : State) : Result State :=
  let s1 := s.setReg .fillData w
  let a0 := (s.reg .fillAddr).toNat
  let n := s.fillCount
  match checkFill s.cfg.fbBankBytes a0 n with
  | some f => .fault f
  | none =>
    match p with
    | .ext => .done { s1.setDram s.acc (fillRun s.accDram a0 w n) with fillAddrDirty := true }
    | .int c => .done { s1.setFill c (some { addr := a0, left := n, data := w }) with fillAddrDirty := true }

/-- The write rule of a latched register, with `w` the merged value (41_bus_decoder R206). -/
def writeLatch (p : Port) (a : Addr) (l : Latch) (ln : Lanes) (v : Half) (s : State) : Result State :=
  let w := merge16 (s.reg l) v ln
  match l with
  | .dreqCtrl => writeDreqCtrl ln v s
  | .dreqLen => writeDreqLen w s
  | .dreqFifo => .done (writeDreqFifo p a w s)
  | .fillAddr => .done { s.setReg .fillAddr w with fillAddrDirty := false }
  | .fillData => writeFillData p w s
  | .pwmLeft => .done (pushSample p a .left w (s.setReg .pwmLeft w))
  | .pwmRight => .done (pushSample p a .right w (s.setReg .pwmRight w))
  | .pwmMono => .done (pushSample p a .right w (pushSample p a .left w (s.setReg .pwmMono w)))
  | l => .done (s.setReg l w)

/-- The palette after a write to the entry at `off` (43_framebuffer_arbiter R277). -/
def writePalette (off : Nat) (ln : Lanes) (v : Half) (s : State) : State :=
  s.setColor (off / 2) ((merge16 ((Mem.get s.palette (off / 2)).setWidth 16) v ln).setWidth 9)

/-- The write rule of a register (20_memory R93; 30_encoding R127). -/
def regWrite (p : Port) (a : Addr) (r : Reg) (off : Nat) (ln : Lanes) (v : Half) (s : State) :
    Result State :=
  match viewOf r p.bus .write with
  | .none => .refused (.badConfig .noView)
  | .unmodelled => .fault (.unmodelled r p.bus .write)
  | .given =>
    match r, p with
    | .latch l, _ => writeLatch p a l ln v s
    | .intMask, .int c => .done (writeIntMask c ln v s)
    | .intMask, .ext => .refused (.badConfig .noView)
    | .intClr src, .int c => .done (acknowledge c src s)
    | .intClr _, .ext => .refused (.badConfig .noView)
    | .palette, _ => gateWrite p .pal s (writePalette off ln v s)

/-- A write that no handler takes: dropped and logged (20_memory R90, R91). -/
def unmappedWrite (p : Port) (a : Addr) (s : State) : State :=
  s.addLog (.unmapped p.bus p.agent a .write)

/-- `targetWrite` (41_bus_decoder R206). -/
def targetWrite (p : Port) (a : Addr) (t : Target) (off : Nat) (ln : Lanes) (v : Half) (s : State) :
    Result State :=
  match t with
  | .reg r => regWrite p a r off ln v s
  | .boot => .done (unmappedWrite p a s)
  | .progRom => .done (unmappedWrite p a s)
  | .romFixed => .done (unmappedWrite p a s)
  | .romBank => .done (unmappedWrite p a s)
  | .vecRom => .done (unmappedWrite p a s)
  | .cart => .done (unmappedWrite p a s)
  | .dram => gateWrite p .fb s (s.setDram s.acc (memWrite s.accDram off ln v))
  | .sdram => .done { s with sdram := memWrite s.sdram off ln v }
  | .cache =>
    match p with
    | .int c => .done (s.setCacheRam c (memWrite (s.cacheRam.get c) off ln v))
    | .ext => .refused (.badConfig .entryTarget)

/-- A bus write after its alignment and lane checks (41_bus_decoder R201, R203); a drain uses it
directly (42_dreq_bridge R248). -/
def busWrite (p : Port) (ln : Lanes) (a : Addr) (v : Half) (s : State) : Result State :=
  match decodeAddr p a s with
  | none => .done (unmappedWrite p a s)
  | some (t, off) => targetWrite p a t off ln v s

/-- The alignment and lane checks of a bus call (20_memory R83), then the call. -/
def checkedCall {α : Type} (ln : Lanes) (a : Addr) (r : Result α) : Result α :=
  if a.getLsbD 0 then .fault .misalignedCall
  else if ln.u || ln.l then r
  else .fault .noLane

/-! ## Scripts, turns and outcomes -/

/-- The script without the first transaction of `ag`. -/
def dropFirst (ag : Agent) : List TxnWord → List TxnWord
  | [] => []
  | w :: ws => if wordAgent w = ag then ws else w :: dropFirst ag ws

/-- The agent's transaction has completed: it advances (00_scope R15). -/
def State.retire (s : State) (ag : Agent) : State := { s with script := dropFirst ag s.script }

/-- What the block answers. -/
def State.answer (s : State) (ag : Agent) (r : Reply) : State := { s with reply := some (ag, r) }

/-- The outcome of agent `ag`'s transaction in state `s` (00_scope R15): completed, it retires with its
answer; held, nothing changes but the answer and the transaction stays; else the run ends. -/
def finish (ag : Agent) (s : State) (r : Result (Reply × State)) :
    Host.Outcome State Fault Refusal :=
  match r with
  | .done x => .next ((x.2.retire ag).answer ag x.1)
  | .held h => .next (s.answer ag (.held h))
  | .fault e => .fault e
  | .refused e => .refused e

/-- A completed effect without a value. -/
def completed (s : State) : Result (Reply × State) := .done (.done, s)

/-- A transaction that only the cores may issue and that holds while the core has an autofill in flight
(30_encoding R122; 43_framebuffer_arbiter R285). -/
def coreTxn (op : BitVec 8) (ag : Agent) (s : State) (k : CoreId → Result (Reply × State)) :
    Host.Outcome State Fault Refusal :=
  match ag with
  | .core c => finish ag s (if (s.fill.get c).isSome then .held (.fillBusy c) else k c)
  | .host => .fault (.badAgent op ag)
  | .env => .fault (.badAgent op ag)

/-- A transaction of a core that an autofill in flight does not hold: `FILLSTEP`. -/
def fillTxn (op : BitVec 8) (ag : Agent) (s : State) (k : CoreId → Result (Reply × State)) :
    Host.Outcome State Fault Refusal :=
  match ag with
  | .core c => finish ag s (k c)
  | .host => .fault (.badAgent op ag)
  | .env => .fault (.badAgent op ag)

/-- A transaction that only the host may issue (30_encoding R122). -/
def hostTxn (op : BitVec 8) (ag : Agent) (s : State) (k : Result (Reply × State)) :
    Host.Outcome State Fault Refusal :=
  match ag with
  | .host => finish ag s k
  | .core _ => .fault (.badAgent op ag)
  | .env => .fault (.badAgent op ag)

/-- A transaction that only the environment may issue (30_encoding R122). -/
def envTxn (op : BitVec 8) (ag : Agent) (s : State) (k : Result (Reply × State)) :
    Host.Outcome State Fault Refusal :=
  match ag with
  | .env => finish ag s k
  | .host => .fault (.badAgent op ag)
  | .core _ => .fault (.badAgent op ag)

/-- The next transaction of agent `ag`: the first word of its script. -/
def State.fetch (s : State) (ag : Agent) : Option TxnWord :=
  s.script.find? (fun w => wordAgent w = ag)

/-- The agent whose turn it is, and the state with the turn used up (assumption 2). -/
def takeTurn (s : State) : Agent × State :=
  match s.turns with
  | ag :: rest => (ag, { s with turns := rest })
  | [] => (Config.freeTurn s.draws, { s with draws := s.draws + 1 })

/-- The run has ended (60_exceptions R337, R338): a mark is set, or the configuration is ill-formed. -/
def State.stopped (s : State) : Option (Host.Outcome State Fault Refusal) :=
  match s.fault with
  | some r => some (.fault r)
  | none =>
    match s.refused with
    | some r => some (.refused r)
    | none =>
      match s.cfg.problem with
      | some e => some (.refused (.badConfig e))
      | none => none

/-- The state a step leaves, marks included: a fault or a refusal sets its mark if none is set and
changes nothing else (60_exceptions R335, R337). -/
def State.after (s : State) : Host.Outcome State Fault Refusal → State
  | .next t => t
  | .fault r => { s with fault := s.fault <|> some r }
  | .refused r => { s with refused := s.refused <|> some r }

end Sys2Proof.Machine
end

