-- ==== Sys2Proof/Machine/Bus.lean ====
section
/-! DEFINITION. The bus transactions and the core-state transactions of 41_bus_decoder: `RDI`, `WRI`,
`RDX`, `WRX`, `BOOTEXIT`, `CACHECFG`. -/

namespace Sys2Proof.Machine

/-- A read call on a port: its value is the answer (41_bus_decoder R200, R202). -/
def readCall (p : Port) (ln : Lanes) (a : Addr) (prior : Half) (s : State) : Result (Reply × State) :=
  checkedCall ln a ((busRead p ln a prior s).map (fun x => (.value x.1, x.2)))

/-- A write call on a port (41_bus_decoder R201, R203). -/
def writeCall (p : Port) (ln : Lanes) (a : Addr) (v : Half) (s : State) : Result (Reply × State) :=
  checkedCall ln a ((busWrite p ln a v s).map (fun t => (.done, t)))

/-- `RDI` (41_bus_decoder R200). -/
def execRdi (ag : Agent) (u l : Bool) (a : Addr) (prior : Half) (s : State) :
    Host.Outcome State Fault Refusal :=
  coreTxn 0x01 ag s (fun c => readCall (.int c) { u := u, l := l } a prior s)

/-- `WRI` (41_bus_decoder R201). -/
def execWri (ag : Agent) (u l : Bool) (a : Addr) (v : Half) (s : State) :
    Host.Outcome State Fault Refusal :=
  coreTxn 0x02 ag s (fun c => writeCall (.int c) { u := u, l := l } a v s)

/-- `RDX` (41_bus_decoder R202). -/
def execRdx (ag : Agent) (u l : Bool) (a : Addr) (prior : Half) (s : State) :
    Host.Outcome State Fault Refusal :=
  hostTxn 0x03 ag s (readCall .ext { u := u, l := l } a prior s)

/-- `WRX` (41_bus_decoder R203). -/
def execWrx (ag : Agent) (u l : Bool) (a : Addr) (v : Half) (s : State) :
    Host.Outcome State Fault Refusal :=
  hostTxn 0x04 ag s (writeCall .ext { u := u, l := l } a v s)

/-- The core has jumped past its boot ROM (41_bus_decoder R226). -/
def leaveBoot (c : CoreId) (s : State) : State := { s with bootMapped := s.bootMapped.set c false }

/-- `BOOTEXIT` (41_bus_decoder R226). -/
def execBootexit (ag : Agent) (s : State) : Host.Outcome State Fault Refusal :=
  coreTxn 0x24 ag s (fun c => completed (leaveBoot c s))

/-- The core's cache-enable flag (41_bus_decoder R227). -/
def setCache (c : CoreId) (b : Bool) (s : State) : State := { s with cacheEn := s.cacheEn.set c b }

/-- `CACHECFG` (41_bus_decoder R227). -/
def execCachecfg (ag : Agent) (enable : Bool) (s : State) : Host.Outcome State Fault Refusal :=
  coreTxn 0x25 ag s (fun c => completed (setCache c enable s))

end Sys2Proof.Machine
end

