-- ==== Sys2Proof/Machine/Dreq.lean ====
section
/-! DEFINITION. The channel side of the DMA bridge (42_dreq_bridge R248 to R252): the drain, `DMACFG` and
`DMARD`. -/

namespace Sys2Proof.Machine

/-- The lowest-numbered enabled channel (42_dreq_bridge R248). -/
def drainChannel (k : PerChannel DmaChannel) : Option Channel :=
  if k.c0.enable then some .ch0 else if k.c1.enable then some .ch1 else none

/-- `gated(c, a)` (42_dreq_bridge R249). -/
def gated (c : CoreId) (a : Addr) (s : State) : Bool :=
  match decodeAddr (.int c) a s with
  | some (.dram, _) => s.engagedFb
  | some (.reg .palette, _) => s.engagedPal
  | _ => false

/-- A channel after one transfer: the destination advances by 4 modulo 2^32, and a count that reaches
zero ends the channel (42_dreq_bridge R248). -/
def DmaChannel.afterTransfer (k : DmaChannel) : DmaChannel :=
  let n := k.count - 1#32
  if n = 0#32 then { k with dst := k.dst + 4#32, count := n, enable := false, complete := true }
  else { k with dst := k.dst + 4#32, count := n }

/-- The two half-word writes of a drain and the channel's advance (42_dreq_bridge R248). -/
def drainTransfer (c : CoreId) (ch : Channel) (d : Addr) (hi lo : Half) (s : State) :
    Result (Reply × State) :=
  (busWrite (.int c) Lanes.full d hi s).bind (fun t =>
    (busWrite (.int c) Lanes.full (d + 2#32) lo t).map (fun u =>
      (.drained ch, u.setChan c ch (DmaChannel.afterTransfer (u.chan c ch)))))

/-- `DRAIN(c)` on the chosen channel (42_dreq_bridge R248). -/
def drainOn (c : CoreId) (ch : Channel) (s : State) : Result (Reply × State) :=
  match s.fifo with
  | hi :: lo :: rest =>
    if (s.chan c ch).count = 0#32 then .fault .dmaZeroCount
    else if (s.chan c ch).dst.getLsbD 0 then .fault .misalignedCall
    else if gated c (s.chan c ch).dst s || gated c ((s.chan c ch).dst + 2#32) s then .done (.noDrain, s)
    else drainTransfer c ch (s.chan c ch).dst hi lo (setFifo rest s)
  | _ => .done (.noDrain, s)

/-- `DRAIN(c)` (42_dreq_bridge R248). -/
def drain (c : CoreId) (s : State) : Result (Reply × State) :=
  match drainChannel (s.dma.get c) with
  | none => .done (.noDrain, s)
  | some ch => drainOn c ch s

/-- `DMACFG` (42_dreq_bridge R251). -/
def execDmacfg (ag : Agent) (ch : Channel) (field : DmaField) (value : Addr) (s : State) :
    Host.Outcome State Fault Refusal :=
  coreTxn 0x22 ag s (fun c =>
    completed (s.setChan c ch (DmaChannel.program (s.chan c ch) field value)))

/-- `DMARD` (42_dreq_bridge R252). -/
def execDmard (ag : Agent) (ch : Channel) (field : DmaField) (s : State) :
    Host.Outcome State Fault Refusal :=
  coreTxn 0x23 ag s (fun c =>
    .done (.dmaValue (DmaChannel.field (s.chan c ch) field),
      s.addLog (.readDma c ch field (DmaChannel.field (s.chan c ch) field))))

end Sys2Proof.Machine
end

