-- ==== Sys2Proof/Machine/Frame.lean ====
section
/-! DEFINITION. The framebuffer arbiter's transaction `FILLSTEP` (43_framebuffer_arbiter R284). -/

namespace Sys2Proof.Machine

/-- The fill after one half-word; none when it was the last (43_framebuffer_arbiter R284). -/
def Fill.next (f : Fill) : Option Fill :=
  if f.left - 1 = 0 then none else some { addr := f.addr + 2, left := f.left - 1, data := f.data }

/-- One pixel write of core `c`'s fill in flight (43_framebuffer_arbiter R284). -/
def fillStep (c : CoreId) (s : State) : Result (Reply × State) :=
  match s.fill.get c with
  | none => completed s
  | some f =>
    if s.engagedFb then .held (.writeEngaged c .fb)
    else completed ((s.setDram s.acc (memWrite s.accDram f.addr Lanes.full f.data)).setFill c (Fill.next f))

/-- `FILLSTEP` (43_framebuffer_arbiter R284). -/
def execFillstep (ag : Agent) (s : State) : Host.Outcome State Fault Refusal :=
  fillTxn 0x21 ag s (fun c => fillStep c s)

end Sys2Proof.Machine
end

