-- ==== Sys2Proof/Machine/Pwm.lean ====
section
/-! DEFINITION. The PWM sample generator's transaction `PWMCLK` (44_pwm R305 to R307). -/

namespace Sys2Proof.Machine

/-- One tick of one channel (44_pwm R306): an enabled channel pops one sample or holds its last value,
a disabled one is unchanged, an illegal mode is silence. -/
def tickSide (s : State) (side : Side) : State :=
  match s.pwmMode side with
  | .on =>
    match s.pwmFifo.get side with
    | [] => s
    | x :: rest =>
      { s with pwmOut := s.pwmOut.set side x, pwmFifo := s.pwmFifo.set side rest }
  | .off => s
  | .illegal => { s with pwmOut := s.pwmOut.set side 0#16 }

/-- `PERIOD()` (44_pwm R307). -/
def pwmPeriodStep (s : State) : State :=
  if s.pwmPeriod ≤ s.periodCount + 1 then
    let t := raiseSource .pwm { s with periodCount := 0 }
    if s.dreqIrq then { t with dreq := both true } else t
  else { s with periodCount := s.periodCount + 1 }

/-- `TICK()` (44_pwm R306). -/
def pwmTick (s : State) : State := pwmPeriodStep ([Side.left, Side.right].foldl tickSide s)

/-- One divider clock (44_pwm R305). -/
def pwmClock (s : State) : State :=
  if s.pwmClocks = 0 then s
  else if s.pwmClocks ≤ s.divCount + 1 then pwmTick { s with divCount := 0 }
  else { s with divCount := s.divCount + 1 }

/-- `PWMCLK` (44_pwm R305). -/
def execPwmclk (ag : Agent) (s : State) : Host.Outcome State Fault Refusal :=
  envTxn 0x40 ag s (completed (pwmClock s))

end Sys2Proof.Machine
end

