-- ==== Sys2Proof/Machine/Serialize.lean ====
section
/-! DEFINITION. The serialization walk of 10_state R72, the stream it is written as under the
configuration's `SERIAL_FORMAT` (assumption 15), and the reading back of both. -/

namespace Sys2Proof.Machine

/-- A channel's fields in the order of 10_state R34. -/
def walkChannel (k : DmaChannel) : List WalkItem :=
  [.word k.src, .word k.dst, .word k.count, .pair k.autoInc, .pair k.size, .flag k.enable,
   .flag k.complete]

/-- A core's pairs, sources in priority order, enable before active. -/
def walkLatches (r : IntRouter) (c : CoreId) : List WalkItem :=
  allSources.flatMap (fun src => [.flag (r.get c src).enable, .flag (r.get c src).active])

/-- Part 2 of 10_state R72: the FIFOs. -/
def walkFifos (s : State) : List WalkItem :=
  [.queue s.fifo, .half s.remaining, .flag s.dreq.m, .flag s.dreq.s, .queue s.pwmFifo.left,
   .queue s.pwmFifo.right, .half s.pwmOut.left, .half s.pwmOut.right, .count s.divCount,
   .count s.periodCount]

/-- Part 5 of 10_state R72. -/
def walkFlags (s : State) : List WalkItem :=
  [.fill s.fill.m, .fill s.fill.s, .flag s.fillAddrDirty, .flag s.bootMapped.m, .flag s.bootMapped.s,
   .flag s.cacheEn.m, .flag s.cacheEn.s, .flag s.vblank, .flag s.hblank]

/-- Parts 6 and 7 of 10_state R72. -/
def walkMemories (s : State) : List WalkItem :=
  [.bytes s.dram.b0, .bytes s.dram.b1, .colors s.palette, .bytes s.cacheRam.m, .bytes s.cacheRam.s,
   .bytes s.sdram]

/-- `walk(s)` (10_state R72, 70_reset R366). -/
def walk (s : State) : List WalkItem :=
  s.regs.toList.map WalkItem.half
  ++ walkFifos s
  ++ (walkChannel s.dma.m.c0 ++ walkChannel s.dma.m.c1 ++ walkChannel s.dma.s.c0
      ++ walkChannel s.dma.s.c1)
  ++ (walkLatches s.ib .m ++ walkLatches s.ib .s)
  ++ walkFlags s
  ++ walkMemories s

/-- `serialize(s)`: the stream of the walk in the configuration's format (10_state R72). -/
def serialize (s : State) : Stream := Config.serialCode s.cfg.serialFormat (.unencoded (walk s))

/-- The walk that a stream was written for; none for a stream that no walk is written as. -/
def readStream (format : Nat) (b : Stream) : Option (List WalkItem) :=
  match (Config.serialCode format).symm b with
  | .unencoded w => some w
  | .bytes _ => none

/-- Read `n` latches. -/
def readHalves : Nat → List WalkItem → Option (List Half × List WalkItem)
  | 0, w => some ([], w)
  | n + 1, .half v :: w =>
    match readHalves n w with
    | some (vs, rest) => some (v :: vs, rest)
    | none => none
  | _ + 1, _ => none

/-- Read the latches back. -/
def readRegs (s : State) (w : List WalkItem) : Option (State × List WalkItem) :=
  match readHalves 27 w with
  | some (vs, rest) =>
    if h : vs.length = 27 then some ({ s with regs := ⟨vs.toArray, by simpa using h⟩ }, rest) else none
  | none => none

def readFifos (s : State) : List WalkItem → Option (State × List WalkItem)
  | .queue q :: .half r :: .flag dm :: .flag ds :: .queue pl :: .queue pr :: .half ol :: .half or' ::
      .count d :: .count p :: w =>
    some ({ s with
      fifo := q, remaining := r, dreq := { m := dm, s := ds }, pwmFifo := { left := pl, right := pr }
      pwmOut := { left := ol, right := or' }, divCount := d, periodCount := p }, w)
  | _ => none

def readChannel (c : CoreId) (ch : Channel) (s : State) :
    List WalkItem → Option (State × List WalkItem)
  | .word src :: .word dst :: .word n :: .pair ai :: .pair sz :: .flag en :: .flag co :: w =>
    some (s.setChan c ch { src := src, dst := dst, count := n, autoInc := ai, size := sz, enable := en,
                           complete := co }, w)
  | _ => none

/-- Read one pair back; the Master's VRES pair has no storage, so nothing is written for it. -/
def readLatchPair (c : CoreId) (src : Source) (s : State) :
    List WalkItem → Option (State × List WalkItem)
  | .flag e :: .flag a :: w => some ({ s with ib := s.ib.set c src { enable := e, active := a } }, w)
  | _ => none

/-- Read the pairs of a core back. -/
def readLatches (c : CoreId) : List Source → State → List WalkItem → Option (State × List WalkItem)
  | [], s, w => some (s, w)
  | src :: rest, s, w =>
    match readLatchPair c src s w with
    | some (t, v) => readLatches c rest t v
    | none => none

def readFlags (s : State) : List WalkItem → Option (State × List WalkItem)
  | .fill fm :: .fill fs :: .flag d :: .flag bm :: .flag bs :: .flag cm :: .flag cs :: .flag vb ::
      .flag hb :: w =>
    some ({ s with
      fill := { m := fm, s := fs }, fillAddrDirty := d, bootMapped := { m := bm, s := bs }
      cacheEn := { m := cm, s := cs }, vblank := vb, hblank := hb }, w)
  | _ => none

def readMemories (s : State) : List WalkItem → Option State
  | [.bytes d0, .bytes d1, .colors p, .bytes cm, .bytes cs, .bytes r] =>
    some { s with
      dram := { b0 := d0, b1 := d1 }, palette := p, cacheRam := { m := cm, s := cs }, sdram := r }
  | _ => none

/-- The state `s` with every field that the walk holds read back from it (10_state R72). What the walk
does not hold (the log, the marks, the configuration and the model's own fields) stays as in `s`
(assumption 28). -/
def restore (w : List WalkItem) (s : State) : Option State := do
  let (s, w) ← readRegs s w
  let (s, w) ← readFifos s w
  let (s, w) ← readChannel .m .ch0 s w
  let (s, w) ← readChannel .m .ch1 s w
  let (s, w) ← readChannel .s .ch0 s w
  let (s, w) ← readChannel .s .ch1 s w
  let (s, w) ← readLatches .m allSources s w
  let (s, w) ← readLatches .s allSources s w
  let (s, w) ← readFlags s w
  readMemories s w

/-- `deserialize`: the stream read back into `s`, in the format of `s`'s configuration (10_state R72). -/
def deserialize (b : Stream) (s : State) : Option State :=
  match readStream s.cfg.serialFormat b with
  | some w => restore w s
  | none => none

end Sys2Proof.Machine
end

