-- ==== Sys2Proof/Machine/Reset.lean ====
section
/-! DEFINITION. `RESET` (70_reset R360, R361; 10_state R70) and `SERIALIZE` (70_reset R366). -/

namespace Sys2Proof.Machine

/-- The "after reset" column of 10_state R70: every reset field cleared, the memories, the raster
inputs, the log and the marks unchanged. -/
def resetFields (s : State) : State :=
  { s with
    ib := IntRouter.clear
    dma := both { c0 := DmaChannel.clear, c1 := DmaChannel.clear }
    regs := Vector.replicate 27 0#16
    fifo := []
    remaining := 0#16
    dreq := both false
    fill := both none
    fillAddrDirty := false
    pwmFifo := { left := [], right := [] }
    pwmOut := { left := 0#16, right := 0#16 }
    divCount := 0
    periodCount := 0
    bootMapped := both true
    cacheEn := both false }

/-- The contents a power-on draw finds in a byte memory of `n` bytes (assumption 10). -/
def drawnBytes (s : State) (sp : Space) (n : Nat) : Memory :=
  Mem.ofCells n (Config.freeCells s.draws sp)

/-- The "after power-on" column of 10_state R70: as after reset, and every memory drawn, the raster
inputs, the log and the marks cleared. -/
def powerOn (s : State) : State :=
  { resetFields s with
    dram := { b0 := drawnBytes s (.dram .b0) s.cfg.fbBankBytes
              b1 := drawnBytes s (.dram .b1) s.cfg.fbBankBytes }
    palette := Mem.ofCells 256 (Config.freeColors s.draws)
    cacheRam := { m := drawnBytes s (.cacheRam .m) 4096
                  s := drawnBytes s (.cacheRam .s) 4096 }
    sdram := drawnBytes s .sdram s.cfg.sdramBytes
    vblank := false
    hblank := false
    log := []
    fault := none
    refused := none
    draws := s.draws + 1 }

/-- `RESET(kind)`. -/
def resetEffect (kind : ResetKind) (s : State) : State :=
  match kind with
  | .power => powerOn s
  | .reset => resetFields s

/-- `RESET` (70_reset R360). -/
def execReset (ag : Agent) (kind : ResetKind) (s : State) : Host.Outcome State Fault Refusal :=
  envTxn 0x50 ag s (completed (resetEffect kind s))

/-- `SERIALIZE`: the callout is recorded, nothing else changes (70_reset R366). -/
def execSerialize (ag : Agent) (s : State) : Host.Outcome State Fault Refusal :=
  envTxn 0x60 ag s (completed (s.addLog (.serialized (walk s) (serialize s))))

end Sys2Proof.Machine
end

