-- ==== Sys2Proof/Machine/Router.lean ====
section
/-! DEFINITION. The interrupt router's transactions (40_interrupt_router): `RAISE`, `ACK`, `SETEN`, `POLL`,
`VBLANK`, `HBLANK`. -/

namespace Sys2Proof.Machine

/-- `RAISE` (40_interrupt_router R175). -/
def execRaise (ag : Agent) (src : Source) (s : State) : Host.Outcome State Fault Refusal :=
  envTxn 0x10 ag s (completed (raiseSource src s))

/-- `ACK` (40_interrupt_router R176). -/
def execAck (ag : Agent) (src : Source) (s : State) : Host.Outcome State Fault Refusal :=
  coreTxn 0x11 ag s (fun c => completed (acknowledge c src s))

/-- `SETEN` (40_interrupt_router R177). -/
def execSeten (ag : Agent) (src : Source) (value : Bool) (s : State) :
    Host.Outcome State Fault Refusal :=
  coreTxn 0x12 ag s (fun c => completed (setEnable c src value s))

/-- The effect of a poll: deliver one interrupt, or else drain (40_interrupt_router R168). -/
def pollEffect (c : CoreId) (mask : BitVec 4) (s : State) : Result (Reply × State) :=
  match pollChoice c mask s with
  | some src => .done (.interrupt src, deliver c src s)
  | none => drain c s

/-- `POLL` (40_interrupt_router R168). -/
def execPoll (ag : Agent) (mask : BitVec 4) (s : State) : Host.Outcome State Fault Refusal :=
  coreTxn 0x20 ag s (fun c => pollEffect c mask s)

/-- `vblank(line)`: a rising edge raises VINT (40_interrupt_router R173). -/
def vblankLine (line : Bool) (s : State) : State :=
  if line && !s.vblank then raiseSource .vint { s with vblank := line } else { s with vblank := line }

/-- `VBLANK` (40_interrupt_router R173). -/
def execVblank (ag : Agent) (line : Bool) (s : State) : Host.Outcome State Fault Refusal :=
  envTxn 0x30 ag s (completed (vblankLine line s))

/-- `hblank(line)`: a rising edge raises HINT (40_interrupt_router R174). -/
def hblankLine (line : Bool) (s : State) : State :=
  if line && !s.hblank then raiseSource .hint { s with hblank := line } else { s with hblank := line }

/-- `HBLANK` (40_interrupt_router R174). -/
def execHblank (ag : Agent) (line : Bool) (s : State) : Host.Outcome State Fault Refusal :=
  envTxn 0x31 ag s (completed (hblankLine line s))

end Sys2Proof.Machine
end

