-- ==== Sys2Proof/Machine/Dispatch.lean ====
section
/-! DEFINITION. The meaning of each transaction: one arm per constructor of `Instr`. -/

namespace Sys2Proof.Machine

def exec (i : Instr) (s : State) : Host.Outcome State Fault Refusal :=
  match i with
  -- 41_bus_decoder: bus transactions
  | .rdi ag u l a prior => Sys2Proof.Machine.execRdi ag u l a prior s
  | .wri ag u l a v => Sys2Proof.Machine.execWri ag u l a v s
  | .rdx ag u l a prior => Sys2Proof.Machine.execRdx ag u l a prior s
  | .wrx ag u l a v => Sys2Proof.Machine.execWrx ag u l a v s
  -- 40_interrupt_router
  | .raise ag src => Sys2Proof.Machine.execRaise ag src s
  | .ack ag src => Sys2Proof.Machine.execAck ag src s
  | .seten ag src value => Sys2Proof.Machine.execSeten ag src value s
  | .poll ag mask => Sys2Proof.Machine.execPoll ag mask s
  -- 43_framebuffer_arbiter
  | .fillstep ag => Sys2Proof.Machine.execFillstep ag s
  -- 42_dreq_bridge: channel programming
  | .dmacfg ag ch field value => Sys2Proof.Machine.execDmacfg ag ch field value s
  | .dmard ag ch field => Sys2Proof.Machine.execDmard ag ch field s
  -- 41_bus_decoder: core-state transactions
  | .bootexit ag => Sys2Proof.Machine.execBootexit ag s
  | .cachecfg ag enable => Sys2Proof.Machine.execCachecfg ag enable s
  -- environment transactions
  | .vblank ag line => Sys2Proof.Machine.execVblank ag line s
  | .hblank ag line => Sys2Proof.Machine.execHblank ag line s
  | .pwmclk ag => Sys2Proof.Machine.execPwmclk ag s
  | .reset ag kind => Sys2Proof.Machine.execReset ag kind s
  | .serialize ag => Sys2Proof.Machine.execSerialize ag s

end Sys2Proof.Machine
end

