-- ==== Sys2Proof/Machine/Step.lean ====
section
/-! DEFINITION. One step: the agent whose turn it is attempts the next transaction of its script
(00_scope R15, R18; 20_memory R97). -/

namespace Sys2Proof.Machine

/-- Attempt the transaction of word `w` (30_encoding R130: a refused word ends the run). -/
def runWord (w : TxnWord) (s : State) : Host.Outcome State Fault Refusal :=
  match decode s.cfg.dmaCountBits w with
  | .rejected why => .refused (.badWord why)
  | .ok i => exec i s

/-- Agent `ag` takes the step: with no transaction left, nothing happens. -/
def runAgent (ag : Agent) (s : State) : Host.Outcome State Fault Refusal :=
  match s.fetch ag with
  | none => .next s
  | some w => runWord w s

/-- One step of the machine. With no transaction left at all it stays as it is (assumption 23). -/
def step (s : State) : Host.Outcome State Fault Refusal :=
  match s.stopped with
  | some o => o
  | none =>
    match s.script with
    | [] => .next s
    | _ :: _ => runAgent (takeTurn s).1 (takeTurn s).2

/-- The state after one step, marks included: a run with its sticky marks (60_exceptions R338). -/
def advance (s : State) : State := s.after (step s)

/-- `s` with an opcode-table word at the head of its agent's script, and the turn given to that agent,
so that the next step attempts it (assumption 1). -/
def State.withFetchWord (s : State) (nbits w : Nat) : State :=
  { s with
    script := BitVec.ofNat 64 (w % 2 ^ nbits) :: s.script
    turns := wordAgent (BitVec.ofNat 64 (w % 2 ^ nbits)) :: s.turns }

end Sys2Proof.Machine
end

