-- ==== Sys2Proof/Safety.lean ====
section
/-! DEFINITION. What the statements about the machine speak of: a completed transaction, a held one, a run
with its marks, a stuck state, and the invariant of the block's registers, queues and memories. -/

namespace Sys2Proof.Machine

/-- Transaction `i` completes in `s` with answer `r` and leaves `t`: its agent's script advances by it
(00_scope R15). -/
def Completes (i : Instr) (s : State) (r : Reply) (t : State) : Prop :=
  exec i s = .next t ∧ t.reply = some (i.agent, r) ∧ t.script = dropFirst i.agent s.script

/-- Transaction `i` holds in `s`: nothing changes but the answer, and the transaction stays at the head
of its agent's script (00_scope R15, 60_exceptions R336). -/
def Holds (i : Instr) (s : State) (h : Hold) : Prop :=
  exec i s = .next { s with reply := some (i.agent, .held h) }

/-- No mark is set (60_exceptions R338). -/
def State.unmarked (s : State) : Prop := s.fault = none ∧ s.refused = none

/-- The answer is a hold. -/
def Reply.isHeld : Reply → Bool
  | .held _ => true
  | _ => false

/-- An attempt of agent `ag`'s next transaction holds. -/
def State.agentHeld (s : State) (ag : Agent) : Bool :=
  match s.fetch ag with
  | none => false
  | some w =>
    match runWord w s with
    | .next t => (t.reply.map (fun r => Reply.isHeld r.2)).getD false
    | _ => false

/-- A stuck state: transactions are left, and every agent that has one is held (60_exceptions R336). -/
def State.stuck (s : State) : Prop :=
  s.script ≠ [] ∧ ∀ ag, s.fetch ag ≠ none → s.agentHeld ag = true

/-- The run of `n` steps from `s`, marks included. -/
def runFrom (s : State) : Nat → State
  | 0 => s
  | n + 1 => runFrom (advance s) n

/-- Every memory has its canonical form. -/
def State.memoriesWf (s : State) : Bool :=
  Mem.wf s.dram.b0 && Mem.wf s.dram.b1 && Mem.wf s.palette && Mem.wf s.cacheRam.m
  && Mem.wf s.cacheRam.s && Mem.wf s.sdram

/-- Every memory lists only addresses that its array has (10_state R50, R58, R59). -/
def State.memoriesSized (s : State) : Bool :=
  Mem.below s.cfg.fbBankBytes s.dram.b0 && Mem.below s.cfg.fbBankBytes s.dram.b1
  && Mem.below 256 s.palette && Mem.below 4096 s.cacheRam.m && Mem.below 4096 s.cacheRam.s
  && Mem.below s.cfg.sdramBytes s.sdram

/-- The queues hold no more than their capacity (10_state R40, R55). -/
def State.queuesBounded (s : State) : Prop :=
  s.fifo.length ≤ s.cfg.dreqDepth ∧ ∀ side, (s.pwmFifo.get side).length ≤ s.cfg.pwmDepth

/-- The values of the open widths fit them (10_state R34, R55). -/
def State.widthsKept (s : State) : Prop :=
  (∀ c ch, (s.chan c ch).count.toNat < 2 ^ s.cfg.dmaCountBits)
  ∧ (∀ side, (s.pwmOut.get side).toNat < 2 ^ s.cfg.pwmSampleBits)
  ∧ ∀ side, ∀ x ∈ s.pwmFifo.get side, x.toNat < 2 ^ s.cfg.pwmSampleBits

/-- While a transfer is active, words remain, so the decrement never wraps (42_dreq_bridge R245); the
stored `FULL` bit is 0 (R240). -/
def State.dreqSound (s : State) : Prop :=
  (s.dreqActive = true → s.remaining ≠ 0#16)
  ∧ (s.reg .dreqCtrl).getLsbD s.cfg.fields.dreqFull = false

/-- A fill in flight has a half-word left, starts on an even offset and ends inside the bank
(10_state R51, 43_framebuffer_arbiter R284, R286). -/
def Fill.inBank (bankBytes : Nat) (f : Fill) : Prop :=
  f.addr % 2 = 0 ∧ 1 ≤ f.left ∧ f.addr + 2 * f.left ≤ bankBytes

/-- Every fill in flight is inside the bank. -/
def State.fillsInBank (s : State) : Prop :=
  ∀ c f, s.fill.get c = some f → f.inBank s.cfg.fbBankBytes

/-- The invariant of the block. -/
structure State.Inv (s : State) : Prop where
  queues   : s.queuesBounded
  widths   : s.widthsKept
  dreq     : s.dreqSound
  fills    : s.fillsInBank
  canonical : s.memoriesWf = true
  sized    : s.memoriesSized = true

/-! ## Words of the statements -/

/-- The agent is one of the two cores. -/
def Agent.isCore : Agent → Bool
  | .core _ => true
  | .host => false
  | .env => false

/-- The row of the transaction admits its agent (30_encoding R121). -/
def Instr.admitted : Instr → Bool
  | .rdi ag _ _ _ _ => Agent.isCore ag
  | .wri ag _ _ _ _ => Agent.isCore ag
  | .rdx ag _ _ _ _ => ag == .host
  | .wrx ag _ _ _ _ => ag == .host
  | .raise ag _ => ag == .env
  | .ack ag _ => Agent.isCore ag
  | .seten ag _ _ => Agent.isCore ag
  | .poll ag _ => Agent.isCore ag
  | .fillstep ag => Agent.isCore ag
  | .dmacfg ag _ _ _ => Agent.isCore ag
  | .dmard ag _ _ => Agent.isCore ag
  | .bootexit ag => Agent.isCore ag
  | .cachecfg ag _ => Agent.isCore ag
  | .vblank ag _ => ag == .env
  | .hblank ag _ => ag == .env
  | .pwmclk ag => ag == .env
  | .reset ag _ => ag == .env
  | .serialize ag => ag == .env

/-- The read call of a port: `RDX` of the host, `RDI` of a core. -/
def Port.readTxn (p : Port) (u l : Bool) (a : Addr) (prior : Half) : Instr :=
  match p with
  | .ext => .rdx .host u l a prior
  | .int c => .rdi (.core c) u l a prior

/-- The write call of a port: `WRX` of the host, `WRI` of a core. -/
def Port.writeTxn (p : Port) (u l : Bool) (a : Addr) (v : Half) : Instr :=
  match p with
  | .ext => .wrx .host u l a v
  | .int c => .wri (.core c) u l a v

/-- No autofill in flight holds the port's agent (43_framebuffer_arbiter R285). -/
def State.unheld (s : State) : Port → Prop
  | .ext => True
  | .int c => s.fill.get c = none

/-- A bus call that R83 lets through: an even address and at least one lane. -/
abbrev callOk (u l : Bool) (a : Addr) : Prop := a.getLsbD 0 = false ∧ (u || l) = true

/-- A poll of core `c` with mask `m` delivers no interrupt (40_interrupt_router R168). -/
def State.quiet (s : State) (c : CoreId) (m : BitVec 4) : Prop :=
  ¬ (c = .s ∧ s.pending .s .vres = true)
  ∧ ∀ x, x ≠ .vres → s.pending c x = true → levelOf x ≤ m.toNat

/-- `ch` is the lowest-numbered enabled channel of core `c` (42_dreq_bridge R248). -/
def State.drainsOn (s : State) (c : CoreId) (ch : Channel) : Prop :=
  (s.chan c ch).enable = true ∧ (ch = .ch1 → (s.chan c .ch0).enable = false)

/-- The state after a completed transaction that changes nothing but the answer and the script. -/
def State.done (s : State) (ag : Agent) (r : Reply) : State :=
  { s with script := dropFirst ag s.script, reply := some (ag, r) }

/-- The event is an interrupt delivered. -/
def Event.isException : Event → Bool
  | .exception _ _ _ => true
  | _ => false

end Sys2Proof.Machine
end

