-- ==== Sys2Proof/Certificates/Slice0/Obligations.lean ====
section
/-! DEFINITION. The statements for the provers, from the numbered rules of spec/. In each, `Completes i s r t`
says that transaction `i` completes in `s` with answer `r` and leaves `t`, and a frame
`t = { s with … }` names every field that may differ. -/

open Sys2Proof Sys2Proof.Machine

/-! ## Encoding and step -/

/-- Every transaction with its operands survives the round trip through its word (30_encoding R120 to R126). -/
def Obligations.DecodeOfEncodeIsTheTransaction : Prop :=
  ∀ (countBits : Nat) (i : Instr), i.wellFormed countBits = true → decode countBits (encode i) = .ok i

/-- Each word has one meaning: a word that is not refused is the word of what it decodes to, so every
must-be-zero field is checked (30_encoding R123, R124, R130). -/
def Obligations.EncodeOfDecodeIsTheWord : Prop :=
  ∀ (countBits : Nat) (w : TxnWord) (i : Instr), decode countBits w = .ok i →
    encode i = w ∧ i.wellFormed countBits = true

/-- Words written out from the field table of 30_encoding R120, R121 and R124. -/
def Obligations.WordsFromTheSpecDecode : Prop :=
  decode 24 0x043000A151100004 = .ok (.wrx .host true true 0x00A15110 0x0004)
  ∧ decode 24 0x015006000010FFFF = .ok (.rdi (.core .m) false true 0x06000010 0xFFFF)
  ∧ decode 24 0x124B000000000000 = .ok (.seten (.core .m) .cmd true)
  ∧ decode 24 0x208F000000000000 = .ok (.poll (.core .s) 15)
  ∧ decode 24 0x2282000000020000 = .ok (.dmacfg (.core .s) .ch0 .count 2)
  ∧ decode 24 0x50C1000000000000 = .ok (.reset .env .reset)

/-- The refused words (30_encoding R130). -/
def Obligations.ReservedWordsAreRefused : Prop :=
  ∀ (countBits : Nat) (w : TxnWord),
    let t := Txn.ofWord w
    let op := t.op.toNat
    ( op ∉ [0x01, 0x02, 0x03, 0x04, 0x10, 0x11, 0x12, 0x20, 0x21, 0x22, 0x23, 0x24, 0x25, 0x30, 0x31,
          0x40, 0x50, 0x60]
      ∨ (op ∉ [0x01, 0x02, 0x03, 0x04] ∧ (t.u = true ∨ t.l = true ∨ t.data ≠ 0#16))
      ∨ (op ∉ [0x01, 0x02, 0x03, 0x04, 0x22] ∧ t.addr ≠ 0#32)
      ∨ (op ∈ [0x01, 0x02, 0x03, 0x04, 0x21, 0x24, 0x40, 0x60] ∧ t.arg ≠ 0#4)
      ∨ (op ∈ [0x10, 0x11] ∧ 8 ≤ t.arg.toNat)
      ∨ (op ∈ [0x25, 0x30, 0x31, 0x50] ∧ 2 ≤ t.arg.toNat)
      ∨ (op ∈ [0x10, 0x11, 0x12] ∧ 5 ≤ t.arg.toNat % 8)
      ∨ (op ∈ [0x22, 0x23] ∧ 4 ≤ t.arg.toNat % 8)
      ∨ (op = 0x22 ∧ t.arg.toNat % 8 = 3 ∧ 64 ≤ t.addr.toNat)
      ∨ (op = 0x22 ∧ t.arg.toNat % 8 = 2 ∧ 2 ^ countBits ≤ t.addr.toNat) )
    ↔ ∃ why, decode countBits w = .rejected why

/-- A step is the decoded transaction of the agent whose turn it is; with no turn given, of the agent the
free value names (assumption 2). Model's convention: assumptions 1 and 2. -/
def Obligations.StepRunsTheDecodedTransaction : Prop :=
  ∀ (s : State) (w : TxnWord) (i : Instr), s.unmarked → s.cfg.problem = none →
    decode s.cfg.dmaCountBits w = .ok i →
    (∀ ag rest, s.turns = ag :: rest → s.script.find? (fun x => wordAgent x = ag) = some w →
      step s = exec i { s with turns := rest })
    ∧ (s.turns = [] → s.script.find? (fun x => wordAgent x = Config.freeTurn s.draws) = some w →
      step s = exec i { s with draws := s.draws + 1 })

/-- A step that faults or refuses sets its mark and changes nothing else; a refused word does refuse, and so
does an ill-formed configuration, before any transaction runs (60_exceptions R335, R337). -/
def Obligations.StopsSetOnlyTheirMark : Prop :=
  (∀ s r, s.unmarked → step s = .fault r → advance s = { s with fault := some r })
  ∧ (∀ s r, s.unmarked → step s = .refused r → advance s = { s with refused := some r })
  ∧ (∀ s ag rest w why, s.unmarked → s.cfg.problem = none → s.turns = ag :: rest →
      s.script.find? (fun x => wordAgent x = ag) = some w →
      decode s.cfg.dmaCountBits w = .rejected why → step s = .refused (.badWord why))
  ∧ ∀ s e, s.unmarked → s.cfg.problem = some e → step s = .refused (.badConfig e)

/-- Once a mark is set, no step changes the state (60_exceptions R338, 10_state R64). -/
def Obligations.MarksAreSticky : Prop :=
  ∀ (s : State) (n : Nat), ¬ s.unmarked → runFrom s n = s

/-! ## Agents and bus calls -/

/-- An agent the row does not admit is a fault (30_encoding R122). -/
def Obligations.WrongAgentFaults : Prop :=
  ∀ (i : Instr) (s : State), Instr.admitted i = false → exec i s = .fault (.badAgent i.opcode i.agent)

/-- The alignment and lane checks of a bus call (20_memory R83). That a core with a fill in flight is held
before them is the model's reading (assumption 12). -/
def Obligations.BusCallsAreChecked : Prop :=
  ∀ (p : Port) (u l : Bool) (a : Addr) (v : Half) (s : State), s.unheld p →
    (a.getLsbD 0 = true →
      exec (p.readTxn u l a v) s = .fault .misalignedCall
      ∧ exec (p.writeTxn u l a v) s = .fault .misalignedCall)
    ∧ (a.getLsbD 0 = false →
      exec (p.readTxn false false a v) s = .fault .noLane
      ∧ exec (p.writeTxn false false a v) s = .fault .noLane)

/-- While core `c` has a fill in flight its every other transaction holds, and nobody else's does
(43_framebuffer_arbiter R285). -/
def Obligations.FillInFlightHoldsItsCore : Prop :=
  ∀ (c : CoreId) (f : Fill) (i : Instr) (s : State), s.fill.get c = some f →
    (Instr.admitted i = true → i.agent = .core c → i ≠ .fillstep (.core c) → Holds i s (.fillBusy c))
    ∧ (i.agent ≠ .core c → ¬ Holds i s (.fillBusy c))

/-! ## Interrupt router -/

/-- `raise` (40_interrupt_router R163). -/
def Obligations.RaiseSetsTheActiveLatches : Prop :=
  ∀ (src : Source) (s : State), ∃ t, Completes (.raise .env src) s .done t
    ∧ t = { s with ib := t.ib, script := t.script, reply := t.reply }
    ∧ ∀ c x, t.latch c x =
        if x = src ∧ ¬ (c = .m ∧ src = .vres) then { s.latch c x with active := true } else s.latch c x

/-- `acknowledge` (40_interrupt_router R164). -/
def Obligations.AckClearsOnlyTheCoresLatch : Prop :=
  ∀ (c : CoreId) (src : Source) (s : State), s.fill.get c = none →
    ∃ t, Completes (.ack (.core c) src) s .done t
    ∧ t = { s with ib := t.ib, script := t.script, reply := t.reply }
    ∧ ∀ d x, t.latch d x =
        if d = c ∧ x = src then { s.latch d x with active := false } else s.latch d x

/-- `setEnable` (40_interrupt_router R165). -/
def Obligations.SetenWritesOnlyTheCoresEnable : Prop :=
  ∀ (c : CoreId) (src : Source) (b : Bool) (s : State), s.fill.get c = none →
    ∃ t, Completes (.seten (.core c) src b) s .done t
    ∧ t = { s with ib := t.ib, script := t.script, reply := t.reply }
    ∧ ∀ d x, t.latch d x =
        if d = c ∧ x = src ∧ ¬ (c = .m ∧ src = .vres) then { s.latch d x with enable := b }
        else s.latch d x

/-- A rising edge of a raster input raises its source on both cores (40_interrupt_router R173, R174). -/
def Obligations.BlankingEdgesRaiseTheirSource : Prop :=
  ∀ (line : Bool) (s : State),
    (∃ t, Completes (.vblank .env line) s .done t
      ∧ t = { s with vblank := line, ib := t.ib, script := t.script, reply := t.reply }
      ∧ ∀ c x, t.latch c x =
          if x = .vint ∧ line = true ∧ s.vblank = false then { s.latch c x with active := true }
          else s.latch c x)
    ∧ ∃ t, Completes (.hblank .env line) s .done t
      ∧ t = { s with hblank := line, ib := t.ib, script := t.script, reply := t.reply }
      ∧ ∀ c x, t.latch c x =
          if x = .hint ∧ line = true ∧ s.hblank = false then { s.latch c x with active := true }
          else s.latch c x

/-- The level and vector of each source (40_interrupt_router R161). -/
def Obligations.LevelsAndVectorsAreTheTables : Prop :=
  levelOf .vres = 14 ∧ levelOf .vint = 12 ∧ levelOf .hint = 10 ∧ levelOf .cmd = 8 ∧ levelOf .pwm = 6
  ∧ vectorOf .vres = 71 ∧ vectorOf .vint = 70 ∧ vectorOf .hint = 69 ∧ vectorOf .cmd = 68
  ∧ vectorOf .pwm = 67

/-- A poll of the Slave delivers VRES whatever the mask is, and clears its latch
(40_interrupt_router R168, R169). -/
def Obligations.PollDeliversVresUnmasked : Prop :=
  ∀ (m : BitVec 4) (s : State), s.fill.get .s = none → s.pending .s .vres = true →
    ∃ t, Completes (.poll (.core .s) m) s (.interrupt .vres) t
    ∧ t = { s with ib := t.ib, log := s.log ++ [Event.exception .s .vres 71], script := t.script,
                   reply := t.reply }
    ∧ ∀ d x, t.latch d x =
        if d = .s ∧ x = .vres then { s.latch d x with active := false } else s.latch d x

/-- A poll delivers the pending maskable source of the highest level, if that exceeds the mask, and
leaves its latch set (40_interrupt_router R168, R170, R171). -/
def Obligations.PollDeliversTheHighestLevel : Prop :=
  ∀ (c : CoreId) (m : BitVec 4) (src : Source) (s : State), s.fill.get c = none →
    ¬ (c = .s ∧ s.pending .s .vres = true) → src ≠ .vres → s.pending c src = true →
    m.toNat < levelOf src →
    (∀ x, x ≠ .vres → s.pending c x = true → levelOf x ≤ levelOf src) →
    exec (.poll (.core c) m) s =
      .next ({ s with log := s.log ++ [Event.exception c src (vectorOf src)] }.done (.core c) (.interrupt src))

/-! ## DREQ bridge -/

/-- A drain into SDRAM: two words, big-endian, four bytes from the destination, the channel advanced
(42_dreq_bridge R248). -/
def Obligations.PollDrainsTwoWordsToSdram : Prop :=
  ∀ (c : CoreId) (m : BitVec 4) (ch : Channel) (hi lo : Half) (rest : List Half) (o1 o2 : Nat) (s : State),
    s.fill.get c = none → s.quiet c m → s.drainsOn c ch → s.fifo = hi :: lo :: rest →
    (s.chan c ch).count ≠ 0#32 → (s.chan c ch).dst.getLsbD 0 = false →
    decodeAddr (.int c) (s.chan c ch).dst s = some (.sdram, o1) →
    decodeAddr (.int c) ((s.chan c ch).dst + 2#32) s = some (.sdram, o2) →
    ∃ t, Completes (.poll (.core c) m) s (.drained ch) t
    ∧ t = { s with fifo := rest, dreq := both (!rest.isEmpty), sdram := t.sdram, dma := t.dma,
                   script := t.script, reply := t.reply }
    ∧ (∀ x, Mem.get t.sdram x =
        if x = o2 then upperByte lo else if x = o2 + 1 then lowerByte lo
        else if x = o1 then upperByte hi else if x = o1 + 1 then lowerByte hi
        else Mem.get s.sdram x)
    ∧ ∀ d h, t.chan d h =
        if d = c ∧ h = ch then
          { s.chan c ch with
            dst := (s.chan c ch).dst + 4#32
            count := (s.chan c ch).count - 1#32
            enable := (s.chan c ch).count != 1#32
            complete := (s.chan c ch).complete || (s.chan c ch).count == 1#32 }
        else s.chan d h

/-- A drain to any destination is two internal writes within one poll, `hi` at the destination and `lo`
two bytes on, after the FIFO is popped and republished, and then the channel's advance
(42_dreq_bridge R248). -/
def Obligations.PollDrainMakesTwoInternalWrites : Prop :=
  ∀ (c : CoreId) (m : BitVec 4) (ch : Channel) (hi lo : Half) (rest : List Half) (s t1 t2 : State),
    s.fill.get c = none → s.quiet c m → s.drainsOn c ch → s.fifo = hi :: lo :: rest →
    (s.chan c ch).count ≠ 0#32 → (s.chan c ch).dst.getLsbD 0 = false →
    gated c (s.chan c ch).dst s = false → gated c ((s.chan c ch).dst + 2#32) s = false →
    busWrite (.int c) Lanes.full (s.chan c ch).dst hi
      { s with fifo := rest, dreq := both (!rest.isEmpty) } = .done t1 →
    busWrite (.int c) Lanes.full ((s.chan c ch).dst + 2#32) lo t1 = .done t2 →
    ∃ t, Completes (.poll (.core c) m) s (.drained ch) t
    ∧ t = { t2 with dma := t.dma, script := t.script, reply := t.reply }
    ∧ t.fifo = rest
    ∧ ∀ d h, t.chan d h =
        if d = c ∧ h = ch then
          { s.chan c ch with
            dst := (s.chan c ch).dst + 4#32
            count := (s.chan c ch).count - 1#32
            enable := (s.chan c ch).count != 1#32
            complete := (s.chan c ch).complete || (s.chan c ch).count == 1#32 }
        else s.chan d h

/-- A poll with no interrupt to deliver completes without draining, and changes nothing, when no channel is
enabled, when the FIFO has fewer than two words, or when the destination is engaged
(40_interrupt_router R168; 42_dreq_bridge R248, R249). -/
def Obligations.PollWithoutDrainChangesNothing : Prop :=
  ∀ (c : CoreId) (m : BitVec 4) (s : State), s.fill.get c = none → s.quiet c m →
    ((∀ ch, (s.chan c ch).enable = false) ∨ s.fifo.length < 2
      ∨ ∃ ch a off, s.drainsOn c ch ∧ (s.chan c ch).count ≠ 0#32 ∧ (s.chan c ch).dst.getLsbD 0 = false
          ∧ (a = (s.chan c ch).dst ∨ a = (s.chan c ch).dst + 2#32)
          ∧ ((decodeAddr (.int c) a s = some (.dram, off) ∧ s.engagedFb = true)
            ∨ (decodeAddr (.int c) a s = some (.reg .palette, off) ∧ s.engagedPal = true))) →
    exec (.poll (.core c) m) s = .next (s.done (.core c) .noDrain)

/-- The faults of a drain with two words at hand, and of the internal writes that it makes
(42_dreq_bridge R248). -/
def Obligations.DrainFaults : Prop :=
  ∀ (c : CoreId) (m : BitVec 4) (ch : Channel) (hi lo : Half) (rest : List Half) (s : State),
    s.fill.get c = none → s.quiet c m → s.drainsOn c ch → s.fifo = hi :: lo :: rest →
    ((s.chan c ch).count = 0#32 → exec (.poll (.core c) m) s = .fault .dmaZeroCount)
    ∧ ((s.chan c ch).count ≠ 0#32 → (s.chan c ch).dst.getLsbD 0 = true →
        exec (.poll (.core c) m) s = .fault .misalignedCall)
    ∧ ∀ e t1, (s.chan c ch).count ≠ 0#32 → (s.chan c ch).dst.getLsbD 0 = false →
        gated c (s.chan c ch).dst s = false → gated c ((s.chan c ch).dst + 2#32) s = false →
        let popped := { s with fifo := rest, dreq := both (!rest.isEmpty) }
        (busWrite (.int c) Lanes.full (s.chan c ch).dst hi popped = .fault e
          ∨ (busWrite (.int c) Lanes.full (s.chan c ch).dst hi popped = .done t1
            ∧ busWrite (.int c) Lanes.full ((s.chan c ch).dst + 2#32) lo t1 = .fault e)) →
        exec (.poll (.core c) m) s = .fault e

/-- `DMACFG` programs the one field (42_dreq_bridge R251). -/
def Obligations.DmacfgProgramsOneField : Prop :=
  ∀ (c : CoreId) (ch : Channel) (f : DmaField) (v : Addr) (s : State), s.fill.get c = none →
    ∃ t, Completes (.dmacfg (.core c) ch f v) s .done t
    ∧ t = { s with dma := t.dma, script := t.script, reply := t.reply }
    ∧ ∀ d h, t.chan d h =
        if d = c ∧ h = ch then
          match f with
          | .src => { s.chan c ch with src := v }
          | .dst => { s.chan c ch with dst := v }
          | .count => { s.chan c ch with count := v }
          | .ctrl => { s.chan c ch with
              enable := v.getLsbD 0, complete := v.getLsbD 1,
              size := v.extractLsb' 2 2, autoInc := v.extractLsb' 4 2 }
        else s.chan d h

/-- `DMARD` returns the one field, `ctrl` packed as 30_encoding R126 says (42_dreq_bridge R252). -/
def Obligations.DmardReturnsOneField : Prop :=
  ∀ (c : CoreId) (ch : Channel) (f : DmaField) (s : State), s.fill.get c = none →
    ∃ v, exec (.dmard (.core c) ch f) s =
        .next ({ s with log := s.log ++ [Event.readDma c ch f v] }.done (.core c) (.dmaValue v))
    ∧ match f with
      | .src => v = (s.chan c ch).src
      | .dst => v = (s.chan c ch).dst
      | .count => v = (s.chan c ch).count
      | .ctrl => v.toNat = (s.chan c ch).enable.toNat + 2 * (s.chan c ch).complete.toNat
                   + 4 * (s.chan c ch).size.toNat + 16 * (s.chan c ch).autoInc.toNat

/-! ## Bus decoder -/

/-- Decoding takes the candidate of the least size, with its offset; with no candidate the access is
unmapped; and under a well-formed configuration no two candidates have one size (20_memory R84). -/
def Obligations.DecodingTakesTheMostSpecificEntry : Prop :=
  ∀ (p : Port) (a : Addr) (s : State),
    let a' := match p with
      | .ext => a.toNat % 2 ^ s.cfg.extAddrBits
      | .int _ => a.toNat
    let cand := fun (e : Entry) =>
      e ∈ s.cfg.addrMap ∧ e.bus = p.bus ∧ e.lo ≤ a' ∧ a' ≤ e.hi
      ∧ match e.cond with
        | .always => True
        | .boot c => p = .int c ∧ s.bootMapped.get c = true
        | .cache c => p = .int c ∧ s.cacheEn.get c = true
        | .aden => s.aden = true
        | .noaden => s.aden = false
    (decodeAddr p a s = none ↔ ∀ e, ¬ cand e)
    ∧ (∀ t off, decodeAddr p a s = some (t, off) →
        ∃ e, cand e ∧ t = e.target ∧ off = a' - e.lo
          ∧ ∀ f, cand f → e.hi - e.lo ≤ f.hi - f.lo)
    ∧ (s.cfg.problem = none → ∀ e f, cand e → cand f → e.hi - e.lo = f.hi - f.lo → e = f)

/-- Unmapped accesses are open bus (20_memory R90). -/
def Obligations.UnmappedAccessIsOpenBus : Prop :=
  ∀ (p : Port) (u l : Bool) (a : Addr) (v : Half) (s : State), s.unheld p → callOk u l a →
    decodeAddr p a s = none →
    exec (p.readTxn u l a v) s =
      .next ({ s with log := s.log ++ [Event.unmapped p.bus p.agent a .read] }.done p.agent (.value v))
    ∧ exec (p.writeTxn u l a v) s =
      .next ({ s with log := s.log ++ [Event.unmapped p.bus p.agent a .write] }.done p.agent .done)

/-- A read of a RAM window: the selected lanes from memory, big-endian, the others from `prior`; never
held (20_memory R82, R88, R92; 43_framebuffer_arbiter R272, R273). -/
def Obligations.RamWindowReads : Prop :=
  ∀ (p : Port) (u l : Bool) (a : Addr) (prior : Half) (t : Target) (off : Nat) (m : Memory) (s : State),
    s.unheld p → callOk u l a → decodeAddr p a s = some (t, off) →
    ((t = .sdram ∧ m = s.sdram)
      ∨ (t = .dram ∧ m = s.dram.get (if (s.reg .fbCtrl).getLsbD s.cfg.fields.fs then .b0 else .b1))
      ∨ (t = .cache ∧ ∃ c, p = .int c ∧ m = s.cacheRam.get c)) →
    ∃ r, exec (p.readTxn u l a prior) s =
        .next ({ s with log := s.log ++ [Event.read p.agent a r] }.done p.agent (.value r))
    ∧ upperByte r = (if u then Mem.get m off else upperByte prior)
    ∧ lowerByte r = (if l then Mem.get m (off + 1) else lowerByte prior)

/-- ROM windows: a read inside the image shows it, `ROMBANK` the slice of `BANK`; a read past its end is
open bus, and a write is dropped and logged (20_memory R91; 41_bus_decoder R216 to R220). -/
def Obligations.RomWindowAccesses : Prop :=
  ∀ (p : Port) (u l : Bool) (a : Addr) (v : Half) (t : Target) (off o : Nat) (img : Image) (s : State),
    s.unheld p → callOk u l a → decodeAddr p a s = some (t, off) →
    ((t = .boot ∧ o = off ∧ ∃ c, p = .int c ∧ img = s.cfg.bootRom.get c)
      ∨ ((t = .progRom ∨ t = .romFixed ∨ t = .cart) ∧ o = off ∧ img = s.cfg.rom)
      ∨ (t = .romBank ∧ img = s.cfg.rom
          ∧ o = s.cfg.fields.bank.read (s.reg .bankSelect) * s.cfg.romBankBytes + off)
      ∨ (t = .vecRom ∧ o = off ∧ img = s.cfg.vectorRom)) →
    (o + 1 < img.size → ∃ r,
        exec (p.readTxn u l a v) s =
          .next ({ s with log := s.log ++ [Event.read p.agent a r] }.done p.agent (.value r))
        ∧ upperByte r = (if u then Mem.get img.cells o else upperByte v)
        ∧ lowerByte r = (if l then Mem.get img.cells (o + 1) else lowerByte v))
    ∧ (img.size ≤ o + 1 →
        exec (p.readTxn u l a v) s =
          .next ({ s with log := s.log ++ [Event.unmapped p.bus p.agent a .read] }.done p.agent (.value v)))
    ∧ exec (p.writeTxn u l a v) s =
        .next ({ s with log := s.log ++ [Event.unmapped p.bus p.agent a .write] }.done p.agent .done)

/-- A core's write to SDRAM or to its own cache window stores the selected lanes and nothing else
(20_memory R89, R92; 41_bus_decoder R221, R222). -/
def Obligations.SdramAndCacheWrites : Prop :=
  ∀ (c : CoreId) (u l : Bool) (a : Addr) (v : Half) (off : Nat) (s : State),
    s.fill.get c = none → callOk u l a →
    (decodeAddr (.int c) a s = some (.sdram, off) →
      ∃ t, Completes (.wri (.core c) u l a v) s .done t
      ∧ t = { s with sdram := t.sdram, script := t.script, reply := t.reply }
      ∧ ∀ x, Mem.get t.sdram x =
          if x = off ∧ u = true then upperByte v
          else if x = off + 1 ∧ l = true then lowerByte v else Mem.get s.sdram x)
    ∧ (decodeAddr (.int c) a s = some (.cache, off) →
      ∃ t, Completes (.wri (.core c) u l a v) s .done t
      ∧ t = { s with cacheRam := t.cacheRam, script := t.script, reply := t.reply }
      ∧ t.cacheRam.get c.other = s.cacheRam.get c.other
      ∧ ∀ x, Mem.get (t.cacheRam.get c) x =
          if x = off ∧ u = true then upperByte v
          else if x = off + 1 ∧ l = true then lowerByte v else Mem.get (s.cacheRam.get c) x)

/-- A write to a framebuffer window stores into the access bank: the host's always, a core's while the
framebuffer is disengaged (43_framebuffer_arbiter R272, R274, R275). -/
def Obligations.FramebufferWrites : Prop :=
  ∀ (p : Port) (u l : Bool) (a : Addr) (v : Half) (off : Nat) (s : State),
    s.unheld p → callOk u l a → decodeAddr p a s = some (.dram, off) →
    (p = .ext ∨ s.engagedFb = false) →
    ∃ t, Completes (p.writeTxn u l a v) s .done t
    ∧ t = { s with dram := t.dram, script := t.script, reply := t.reply }
    ∧ t.dram.get s.sel = s.dram.get s.sel
    ∧ ∀ x, Mem.get (t.dram.get s.sel.other) x =
        if x = off ∧ u = true then upperByte v
        else if x = off + 1 ∧ l = true then lowerByte v else Mem.get (s.dram.get s.sel.other) x

/-- A core's write to an engaged framebuffer or palette holds (43_framebuffer_arbiter R275, R278). -/
def Obligations.EngagedCoreWritesHold : Prop :=
  ∀ (c : CoreId) (u l : Bool) (a : Addr) (v : Half) (off : Nat) (s : State),
    s.fill.get c = none → callOk u l a →
    (decodeAddr (.int c) a s = some (.dram, off) → s.engagedFb = true →
      Holds (.wri (.core c) u l a v) s (.writeEngaged c .fb))
    ∧ (decodeAddr (.int c) a s = some (.reg .palette, off) → s.engagedPal = true →
      Holds (.wri (.core c) u l a v) s (.writeEngaged c .pal))

/-- The palette window: reads give the 9-bit entry zero-extended, writes keep 9 bits, the host's always,
a core's while the palette is disengaged (43_framebuffer_arbiter R276 to R278). -/
def Obligations.PaletteAccesses : Prop :=
  ∀ (p : Port) (u l : Bool) (a : Addr) (v : Half) (off : Nat) (s : State),
    s.unheld p → callOk u l a → decodeAddr p a s = some (.reg .palette, off) →
    (let r := merge16 v ((Mem.get s.palette (off / 2)).setWidth 16) { u := u, l := l }
     exec (p.readTxn u l a v) s =
        .next ({ s with log := s.log ++ [Event.read p.agent a r] }.done p.agent (.value r)))
    ∧ ((p = .ext ∨ s.engagedPal = false) →
        ∃ t, Completes (p.writeTxn u l a v) s .done t
        ∧ t = { s with palette := t.palette, script := t.script, reply := t.reply }
        ∧ ∀ i, Mem.get t.palette i =
            if i = off / 2 then
              (merge16 ((Mem.get s.palette i).setWidth 16) v { u := u, l := l }).setWidth 9
            else Mem.get s.palette i)

/-! ## Registers -/

/-- A read of a plain latch returns it, from either bus on which it has a view; `DREQ_LEN` reads as
programmed and `FILL_ADDR` as last written until a fill is triggered (42_dreq_bridge R244,
43_framebuffer_arbiter R280, R281; 41_bus_decoder R205). -/
def Obligations.LatchReads : Prop :=
  ∀ (p : Port) (u l : Bool) (a : Addr) (prior : Half) (r : Latch) (off : Nat) (s : State),
    s.unheld p → callOk u l a → decodeAddr p a s = some (.reg (.latch r), off) →
    r ∉ [Latch.dreqCtrl, .dreqFifo, .pwmLeft, .pwmRight, .pwmMono] →
    (r = .adapterCtrl → p = .ext) → (r = .fillAddr → s.fillAddrDirty = false) →
    exec (p.readTxn u l a prior) s =
      .next ({ s with log := s.log ++ [Event.read p.agent a (merge16 prior (s.reg r) { u := u, l := l })] }.done
        p.agent (.value (merge16 prior (s.reg r) { u := u, l := l })))

/-- A write to a latch without a further effect stores the merged value and nothing else
(41_bus_decoder R206, R210, R213 to R215; 42_dreq_bridge R242; 43_framebuffer_arbiter R279, R281;
44_pwm R300, R301). -/
def Obligations.PlainLatchWrites : Prop :=
  ∀ (p : Port) (u l : Bool) (a : Addr) (v : Half) (r : Latch) (off : Nat) (s : State),
    s.unheld p → callOk u l a → decodeAddr p a s = some (.reg (.latch r), off) →
    ((∃ n, r = .comm n) ∨ r ∈ [Latch.vdpMode, .fillLen, .fbCtrl, .pwmCtrl, .pwmCycle]
      ∨ (p = .ext
          ∧ r ∈ [Latch.adapterCtrl, .bankSelect, .dreqSrcHi, .dreqSrcLo, .dreqDstHi, .dreqDstLo])) →
    ∃ t, Completes (p.writeTxn u l a v) s .done t
    ∧ t = { s with regs := t.regs, script := t.script, reply := t.reply }
    ∧ ∀ x, t.reg x = if x = r then merge16 (s.reg r) v { u := u, l := l } else s.reg x

/-- The register accesses the source does not describe (41_bus_decoder R225, 42_dreq_bridge R246). -/
def Obligations.UnmodelledAccessesFault : Prop :=
  ∀ (p : Port) (u l : Bool) (a : Addr) (v : Half) (r : Latch) (off : Nat) (s : State),
    s.unheld p → callOk u l a → decodeAddr p a s = some (.reg (.latch r), off) →
    (∀ c, p = .int c →
      r ∈ [Latch.bankSelect, .dreqCtrl, .dreqSrcHi, .dreqSrcLo, .dreqDstHi, .dreqDstLo, .dreqLen, .dreqFifo] →
      exec (p.writeTxn u l a v) s = .fault (.unmodelled (.latch r) .int .write))
    ∧ (r = .dreqFifo → exec (p.readTxn u l a v) s = .fault (.unmodelled (.latch .dreqFifo) p.bus .read))

/-- A core's `INT_MASK` write sets its own enables at the covered positions (40_interrupt_router R179). -/
def Obligations.IntMaskWriteSetsTheEnables : Prop :=
  ∀ (c : CoreId) (u l : Bool) (a : Addr) (v : Half) (off : Nat) (s : State),
    s.fill.get c = none → callOk u l a → decodeAddr (.int c) a s = some (.reg .intMask, off) →
    ∃ t, Completes (.wri (.core c) u l a v) s .done t
    ∧ t = { s with ib := t.ib, script := t.script, reply := t.reply }
    ∧ ∀ d x, t.latch d x =
        match enablePos s.cfg.fields x with
        | some q =>
          if d = c ∧ (if 8 ≤ q then u else l) = true ∧ ¬ (c = .m ∧ x = .vres) then
            { s.latch d x with enable := v.getLsbD q }
          else s.latch d x
        | none => s.latch d x

/-- A core's `INT_MASK` read shows its enables, `ADEN` and `FM`; every other bit is a free value
(40_interrupt_router R180; assumption 11). -/
def Obligations.IntMaskReadShowsTheEnables : Prop :=
  ∀ (c : CoreId) (u l : Bool) (a : Addr) (prior : Half) (off : Nat) (s : State),
    s.fill.get c = none → callOk u l a → s.cfg.problem = none →
    decodeAddr (.int c) a s = some (.reg .intMask, off) →
    ∃ v, exec (.rdi (.core c) u l a prior) s =
        .next ({ s with
            draws := s.draws + 1
            log := s.log ++ [Event.read (.core c) a (merge16 prior v { u := u, l := l })] }.done
          (.core c) (.value (merge16 prior v { u := u, l := l })))
    ∧ (∀ x q, enablePos s.cfg.fields x = some q → v.getLsbD q = (s.latch c x).enable)
    ∧ v.getLsbD s.cfg.fields.imAden = s.aden
    ∧ v.getLsbD s.cfg.fields.imFm = s.fm
    ∧ ∀ q, q < 16 → (∀ x, enablePos s.cfg.fields x ≠ some q) → q ≠ s.cfg.fields.imAden →
        q ≠ s.cfg.fields.imFm → v.getLsbD q = (Config.freeHalf s.draws).getLsbD q

/-- A write to `INT_CLR_<src>`, whatever its lanes and data, acknowledges for the writing core; the
external bus has no view of the register (40_interrupt_router R178). -/
def Obligations.IntClrWriteAcknowledges : Prop :=
  ∀ (c : CoreId) (src : Source) (u l : Bool) (a : Addr) (v : Half) (off : Nat) (s : State),
    s.fill.get c = none → callOk u l a → decodeAddr (.int c) a s = some (.reg (.intClr src), off) →
    ∃ t, Completes (.wri (.core c) u l a v) s .done t
    ∧ t = { s with ib := t.ib, script := t.script, reply := t.reply }
    ∧ (∀ d x, t.latch d x =
        if d = c ∧ x = src then { s.latch d x with active := false } else s.latch d x)
    ∧ (s.cfg.problem = none → ∀ b o, decodeAddr .ext b s ≠ some (.reg (.intClr src), o))

/-- Reads whose value the source does not give are free values and change nothing else
(40_interrupt_router R181, 44_pwm R304; 43_framebuffer_arbiter R281; assumption 11). -/
def Obligations.UnspecifiedReadsAreFree : Prop :=
  ∀ (p : Port) (u l : Bool) (a : Addr) (prior : Half) (r : Reg) (off : Nat) (s : State),
    s.unheld p → callOk u l a → decodeAddr p a s = some (.reg r, off) →
    ((∃ src c, r = .intClr src ∧ p = .int c)
      ∨ r = .latch .pwmLeft ∨ r = .latch .pwmRight ∨ r = .latch .pwmMono
      ∨ (r = .latch .fillAddr ∧ s.fillAddrDirty = true)) →
    let v := merge16 prior (Config.freeHalf s.draws) { u := u, l := l }
    exec (p.readTxn u l a prior) s =
      .next ({ s with draws := s.draws + 1, log := s.log ++ [Event.read p.agent a v] }.done p.agent (.value v))

/-- The host's `DREQ_CTRL` write arms, disables or does neither; a core's faults (42_dreq_bridge R240). -/
def Obligations.DreqCtrlWriteArmsOrDisables : Prop :=
  (∀ (c : CoreId) (u l : Bool) (a : Addr) (v : Half) (off : Nat) (s : State), s.fill.get c = none →
    callOk u l a → decodeAddr (.int c) a s = some (.reg (.latch .dreqCtrl), off) →
    exec (.wri (.core c) u l a v) s = .fault (.unmodelled (.latch .dreqCtrl) .int .write))
  ∧ ∀ (u l : Bool) (a : Addr) (v : Half) (off : Nat) (s : State), callOk u l a →
    decodeAddr .ext a s = some (.reg (.latch .dreqCtrl), off) →
    let q := s.cfg.fields.dreqActive
    let covered := (if 8 ≤ q then u else l) = true
    let stored := (s.setReg .dreqCtrl
      (putBit (merge16 (s.reg .dreqCtrl) v { u := u, l := l }) s.cfg.fields.dreqFull false))
    let i : Instr := .wrx .host u l a v
    if covered ∧ v.getLsbD q = true ∧ s.dreqActive = false then
      if s.reg .dreqLen = 0#16 then exec i s = .fault .dreqArmZeroLength
      else exec i s = .next ({ stored with remaining := s.reg .dreqLen }.done .host .done)
    else if covered ∧ v.getLsbD q = false then
      exec i s = .next ({ stored with fifo := [], dreq := { m := false, s := false } }.done .host .done)
    else exec i s = .next (stored.done .host .done)

/-- A `DREQ_CTRL` read shows the stored bits, with `full` at its position (42_dreq_bridge R241). -/
def Obligations.DreqCtrlReadShowsFull : Prop :=
  ∀ (p : Port) (u l : Bool) (a : Addr) (prior : Half) (off : Nat) (s : State),
    s.unheld p → callOk u l a → decodeAddr p a s = some (.reg (.latch .dreqCtrl), off) →
    ∃ v, exec (p.readTxn u l a prior) s =
        .next ({ s with log := s.log ++ [Event.read p.agent a (merge16 prior v { u := u, l := l })] }.done
          p.agent (.value (merge16 prior v { u := u, l := l })))
    ∧ ∀ q, q < 16 → v.getLsbD q =
        if q = s.cfg.fields.dreqFull then decide (s.fifo.length = s.cfg.dreqDepth)
        else (s.reg .dreqCtrl).getLsbD q

/-- The host's `DREQ_LEN` write loads the count and empties the FIFO; a zero length while active, and a
core's write, fault (42_dreq_bridge R243). -/
def Obligations.DreqLenWriteRestarts : Prop :=
  (∀ (c : CoreId) (u l : Bool) (a : Addr) (v : Half) (off : Nat) (s : State), s.fill.get c = none →
    callOk u l a → decodeAddr (.int c) a s = some (.reg (.latch .dreqLen), off) →
    exec (.wri (.core c) u l a v) s = .fault (.unmodelled (.latch .dreqLen) .int .write))
  ∧ ∀ (u l : Bool) (a : Addr) (v : Half) (off : Nat) (s : State), callOk u l a →
    decodeAddr .ext a s = some (.reg (.latch .dreqLen), off) →
    let w := merge16 (s.reg .dreqLen) v { u := u, l := l }
    if s.dreqActive = true ∧ w = 0#16 then
      exec (.wrx .host u l a v) s = .fault .dreqArmZeroLength
    else
      exec (.wrx .host u l a v) s =
        .next ({ s.setReg .dreqLen w with
            remaining := w, fifo := [], dreq := { m := false, s := false } }.done .host .done)

/-- The host's `DREQ_FIFO` write queues one word if the transfer is active and the FIFO has room, else
the word is lost (42_dreq_bridge R245). -/
def Obligations.DreqFifoWriteQueuesOrDrops : Prop :=
  ∀ (u l : Bool) (a : Addr) (v : Half) (off : Nat) (s : State), callOk u l a →
    decodeAddr .ext a s = some (.reg (.latch .dreqFifo), off) →
    let w := merge16 (s.reg .dreqFifo) v { u := u, l := l }
    if s.dreqActive = true ∧ s.fifo.length < s.cfg.dreqDepth then
      ∃ t, Completes (.wrx .host u l a v) s .done t
      ∧ t = { s with regs := t.regs, fifo := s.fifo ++ [w], remaining := s.remaining - 1#16,
                     dreq := { m := true, s := true }, script := t.script, reply := t.reply }
      ∧ (∀ x, x ≠ .dreqFifo → x ≠ .dreqCtrl → t.reg x = s.reg x)
      ∧ t.reg .dreqFifo = w
      ∧ ∀ q, q < 16 → (t.reg .dreqCtrl).getLsbD q =
          if q = s.cfg.fields.dreqActive ∧ s.remaining = 1#16 then false
          else (s.reg .dreqCtrl).getLsbD q
    else
      exec (.wrx .host u l a v) s =
        .next ({ s.setReg .dreqFifo w with
            log := s.log ++ [Event.droppedWrite .fifoInactiveOrFull .host a] }.done .host .done)

/-- A sample write pushes the truncated merged value into each of its FIFOs that has room, and logs the
loss for each that is full (44_pwm R302, R303). -/
def Obligations.PwmSampleWritesPushOrDrop : Prop :=
  ∀ (p : Port) (u l : Bool) (a : Addr) (v : Half) (r : Latch) (sides : List Side) (off : Nat) (s : State),
    s.unheld p → callOk u l a → decodeAddr p a s = some (.reg (.latch r), off) →
    ((r = .pwmLeft ∧ sides = [.left]) ∨ (r = .pwmRight ∧ sides = [.right])
      ∨ (r = .pwmMono ∧ sides = [.left, .right])) →
    ∃ t, Completes (p.writeTxn u l a v) s .done t
    ∧ t = { s with regs := t.regs, pwmFifo := t.pwmFifo, log := t.log, script := t.script,
                   reply := t.reply }
    ∧ (∀ x, t.reg x = if x = r then merge16 (s.reg r) v { u := u, l := l } else s.reg x)
    ∧ (∀ side, ∃ y : Half,
        y.toNat = (merge16 (s.reg r) v { u := u, l := l }).toNat % 2 ^ min 16 s.cfg.pwmSampleBits
        ∧ t.pwmFifo.get side =
          if side ∈ sides ∧ (s.pwmFifo.get side).length < s.cfg.pwmDepth then s.pwmFifo.get side ++ [y]
          else s.pwmFifo.get side)
    ∧ t.log = s.log ++ ((sides.filter (fun side => s.cfg.pwmDepth ≤ (s.pwmFifo.get side).length)).map
        (fun side => .droppedWrite (.pwmFifoFull side) p.agent a))

/-! ## Autofill -/

/-- The checks of a fill's range, and the writes to `FILL_ADDR` (43_framebuffer_arbiter R281, R286). That a
start both odd and past the end of the bank is named `MisalignedFill` is the model's choice
(assumption 25). -/
def Obligations.FillRangeIsChecked : Prop :=
  ∀ (p : Port) (u l : Bool) (a : Addr) (v : Half) (off : Nat) (s : State), s.unheld p → callOk u l a →
    (decodeAddr p a s = some (.reg (.latch .fillData), off) →
      ((s.reg .fillAddr).toNat % 2 = 1 → exec (p.writeTxn u l a v) s = .fault .misalignedFill)
      ∧ ((s.reg .fillAddr).toNat % 2 = 0 →
          s.cfg.fbBankBytes < (s.reg .fillAddr).toNat + 2 * (s.cfg.fields.fillLen.read (s.reg .fillLen) + 1) →
          exec (p.writeTxn u l a v) s = .fault .fillOutOfBank)
      ∧ ((s.reg .fillAddr).toNat % 2 = 0 →
          (s.reg .fillAddr).toNat + 2 * (s.cfg.fields.fillLen.read (s.reg .fillLen) + 1) ≤ s.cfg.fbBankBytes →
          ∃ t, Completes (p.writeTxn u l a v) s .done t))
    ∧ (decodeAddr p a s = some (.reg (.latch .fillAddr), off) →
      exec (p.writeTxn u l a v) s =
        .next ({ s.setReg .fillAddr (merge16 (s.reg .fillAddr) v { u := u, l := l }) with
          fillAddrDirty := false }.done p.agent .done))

/-- The host's `FILL_DATA` write fills the whole run in the access bank, engaged or not, or faults on its
range before any pixel (43_framebuffer_arbiter R282, R286). That a start both odd and past the end of the
bank is named `MisalignedFill` is the model's choice (assumption 25). -/
def Obligations.HostFillWritesTheRun : Prop :=
  ∀ (u l : Bool) (a : Addr) (v : Half) (off : Nat) (s : State), callOk u l a →
    decodeAddr .ext a s = some (.reg (.latch .fillData), off) →
    let w := merge16 (s.reg .fillData) v { u := u, l := l }
    let a0 := (s.reg .fillAddr).toNat
    let n := s.cfg.fields.fillLen.read (s.reg .fillLen) + 1
    (a0 % 2 = 1 → exec (.wrx .host u l a v) s = .fault .misalignedFill)
    ∧ (a0 % 2 = 0 → s.cfg.fbBankBytes < a0 + 2 * n → exec (.wrx .host u l a v) s = .fault .fillOutOfBank)
    ∧ (a0 % 2 = 0 → a0 + 2 * n ≤ s.cfg.fbBankBytes →
      ∃ t, Completes (.wrx .host u l a v) s .done t
      ∧ t = { s with regs := t.regs, dram := t.dram, fillAddrDirty := true, script := t.script,
                     reply := t.reply }
      ∧ (∀ x, t.reg x = if x = .fillData then w else s.reg x)
      ∧ t.dram.get s.sel = s.dram.get s.sel
      ∧ ∀ x, Mem.get (t.dram.get s.sel.other) x =
          if a0 ≤ x ∧ x < a0 + 2 * n then (if x % 2 = 0 then upperByte w else lowerByte w)
          else Mem.get (s.dram.get s.sel.other) x)

/-- A core's `FILL_DATA` write starts a fill in flight and writes no pixel (43_framebuffer_arbiter R283). -/
def Obligations.CoreFillStartsInFlight : Prop :=
  ∀ (c : CoreId) (u l : Bool) (a : Addr) (v : Half) (off : Nat) (s : State),
    s.fill.get c = none → callOk u l a →
    decodeAddr (.int c) a s = some (.reg (.latch .fillData), off) →
    let w := merge16 (s.reg .fillData) v { u := u, l := l }
    let a0 := (s.reg .fillAddr).toNat
    let n := s.cfg.fields.fillLen.read (s.reg .fillLen) + 1
    a0 % 2 = 0 → a0 + 2 * n ≤ s.cfg.fbBankBytes →
    ∃ t, Completes (.wri (.core c) u l a v) s .done t
    ∧ t = { s with regs := t.regs, fill := t.fill, fillAddrDirty := true, script := t.script,
                   reply := t.reply }
    ∧ (∀ x, t.reg x = if x = .fillData then w else s.reg x)
    ∧ t.fill.get c = some { addr := a0, left := n, data := w }
    ∧ t.fill.get c.other = s.fill.get c.other

/-- `FILLSTEP`: without a fill nothing happens, while engaged it holds, else one half-word goes to the
bank that is the access bank now (43_framebuffer_arbiter R284). -/
def Obligations.FillstepWritesOneHalfWord : Prop :=
  ∀ (c : CoreId) (s : State),
    (s.fill.get c = none → exec (.fillstep (.core c)) s = .next (s.done (.core c) .done))
    ∧ ∀ f, s.fill.get c = some f →
      (s.engagedFb = true → Holds (.fillstep (.core c)) s (.writeEngaged c .fb))
      ∧ (s.engagedFb = false →
        ∃ t, Completes (.fillstep (.core c)) s .done t
        ∧ t = { s with dram := t.dram, fill := t.fill, script := t.script, reply := t.reply }
        ∧ t.dram.get s.sel = s.dram.get s.sel
        ∧ (∀ x, Mem.get (t.dram.get s.sel.other) x =
            if x = f.addr then upperByte f.data else if x = f.addr + 1 then lowerByte f.data
            else Mem.get (s.dram.get s.sel.other) x)
        ∧ t.fill.get c.other = s.fill.get c.other
        ∧ t.fill.get c = if f.left - 1 = 0 then none
            else some { addr := f.addr + 2, left := f.left - 1, data := f.data })

/-! ## Core state, PWM, reset, persistence -/

/-- `BOOTEXIT` and `CACHECFG` (41_bus_decoder R226, R227). -/
def Obligations.CoreStateTransactions : Prop :=
  ∀ (c : CoreId) (b : Bool) (s : State), s.fill.get c = none →
    (∃ t, Completes (.bootexit (.core c)) s .done t
      ∧ t = { s with bootMapped := t.bootMapped, script := t.script, reply := t.reply }
      ∧ t.bootMapped.get c = false ∧ t.bootMapped.get c.other = s.bootMapped.get c.other)
    ∧ ∃ t, Completes (.cachecfg (.core c) b) s .done t
      ∧ t = { s with cacheEn := t.cacheEn, script := t.script, reply := t.reply }
      ∧ t.cacheEn.get c = b ∧ t.cacheEn.get c.other = s.cacheEn.get c.other

/-- One divider clock: stopped, counting, or a tick with its period count (44_pwm R305 to R307). -/
def Obligations.PwmclkCountsAndTicks : Prop :=
  ∀ (s : State),
    (s.pwmClocks = 0 → exec (.pwmclk .env) s = .next (s.done .env .done))
    ∧ (s.pwmClocks ≠ 0 → s.divCount + 1 < s.pwmClocks →
        exec (.pwmclk .env) s = .next ({ s with divCount := s.divCount + 1 }.done .env .done))
    ∧ (s.pwmClocks ≠ 0 → s.pwmClocks ≤ s.divCount + 1 →
        ∃ t, Completes (.pwmclk .env) s .done t
        ∧ t = { s with ib := t.ib, dreq := t.dreq, pwmFifo := t.pwmFifo, pwmOut := t.pwmOut, divCount := 0,
                       periodCount := t.periodCount, script := t.script, reply := t.reply }
        ∧ (∀ side, match s.pwmMode side with
            | .on => match s.pwmFifo.get side with
              | [] => t.pwmFifo.get side = [] ∧ t.pwmOut.get side = s.pwmOut.get side
              | x :: rest => t.pwmFifo.get side = rest ∧ t.pwmOut.get side = x
            | .off => t.pwmFifo.get side = s.pwmFifo.get side ∧ t.pwmOut.get side = s.pwmOut.get side
            | .illegal => t.pwmFifo.get side = s.pwmFifo.get side ∧ t.pwmOut.get side = 0#16)
        ∧ (s.periodCount + 1 < s.pwmPeriod →
            t.periodCount = s.periodCount + 1 ∧ t.ib = s.ib ∧ t.dreq = s.dreq)
        ∧ (s.pwmPeriod ≤ s.periodCount + 1 →
            t.periodCount = 0
            ∧ (∀ c x, t.latch c x =
                if x = .pwm then { s.latch c x with active := true } else s.latch c x)
            ∧ t.dreq = if s.dreqIrq then { m := true, s := true } else s.dreq))

/-- Over a run of divider clocks a tick happens at every `C`-th and the PWM interrupt is raised at the
`P`-th tick and every `P`-th after it, at no other (44_pwm R309). -/
def Obligations.PwmInterruptOncePerPeriod : Prop :=
  ∀ (f : Nat → State), 1 ≤ (f 0).pwmClocks → 1 ≤ (f 0).pwmPeriod →
    (f 0).divCount = 0 → (f 0).periodCount = 0 →
    (∀ k, exec (.pwmclk .env) (f k) = .next (f (k + 1))) →
    ∀ k, (f k).divCount = k % (f 0).pwmClocks
      ∧ (f k).periodCount = k / (f 0).pwmClocks % (f 0).pwmPeriod
      ∧ (∀ c, ((f k).latch c .pwm).active =
          (((f 0).latch c .pwm).active || decide ((f 0).pwmClocks * (f 0).pwmPeriod ≤ k)))
      ∧ (¬ (f 0).pwmClocks * (f 0).pwmPeriod ∣ k + 1 → (f (k + 1)).ib = (f k).ib)

/-- `RESET` clears every reset field; a reset keeps the memories, the raster inputs and the log, a
power-on draws the memories, each cut to its array, and clears the rest (70_reset R360, R361;
10_state R70). What the drawn cells are is free (assumption 10). That the turns and the configuration
stay, and that a power-on leaves both marks clear although 10_state R64 never clears a set one, is the
model's reading (assumption 18). -/
def Obligations.ResetClearsTheResetFields : Prop :=
  ∀ (kind : ResetKind) (s : State), ∃ t, Completes (.reset .env kind) s .done t
    ∧ (∀ c x, t.latch c x = { enable := false, active := false })
    ∧ (∀ c ch, t.chan c ch = { src := 0#32, dst := 0#32, count := 0#32, autoInc := 0#2, size := 0#2,
                                enable := false, complete := false })
    ∧ (∀ r, t.reg r = 0#16)
    ∧ t.fifo = [] ∧ t.remaining = 0#16 ∧ t.fillAddrDirty = false ∧ t.divCount = 0 ∧ t.periodCount = 0
    ∧ (∀ c, t.dreq.get c = false ∧ t.fill.get c = none ∧ t.bootMapped.get c = true
        ∧ t.cacheEn.get c = false)
    ∧ (∀ side, t.pwmFifo.get side = [] ∧ t.pwmOut.get side = 0#16)
    ∧ t.cfg = s.cfg ∧ t.turns = s.turns
    ∧ match kind with
      | .reset => t.dram = s.dram ∧ t.palette = s.palette ∧ t.cacheRam = s.cacheRam ∧ t.sdram = s.sdram
          ∧ t.vblank = s.vblank ∧ t.hblank = s.hblank ∧ t.log = s.log ∧ t.draws = s.draws
          ∧ t.fault = s.fault ∧ t.refused = s.refused
      | .power => t.vblank = false ∧ t.hblank = false ∧ t.log = [] ∧ t.draws = s.draws + 1
          ∧ t.fault = none ∧ t.refused = none
          ∧ (∀ b, t.dram.get b = Mem.ofCells s.cfg.fbBankBytes (Config.freeCells s.draws (.dram b)))
          ∧ t.palette = Mem.ofCells 256 (Config.freeColors s.draws)
          ∧ (∀ c, t.cacheRam.get c = Mem.ofCells 4096 (Config.freeCells s.draws (.cacheRam c)))
          ∧ t.sdram = Mem.ofCells s.cfg.sdramBytes (Config.freeCells s.draws .sdram)

/-- The state the model starts in is one the "after power-on" column admits (10_state R70, 70_reset R360).
Its configuration, empty memories and empty script are the model's choice (assumptions 1, 6, 9). -/
def Obligations.ResetStateIsAfterPowerOn : Prop :=
  (∀ c x, State.reset.latch c x = { enable := false, active := false })
  ∧ (∀ r, State.reset.reg r = 0#16)
  ∧ (∀ c ch, State.reset.chan c ch = { src := 0#32, dst := 0#32, count := 0#32, autoInc := 0#2, size := 0#2,
                                        enable := false, complete := false })
  ∧ State.reset.fifo = [] ∧ State.reset.remaining = 0#16 ∧ State.reset.fillAddrDirty = false
  ∧ (∀ side, State.reset.pwmFifo.get side = [] ∧ State.reset.pwmOut.get side = 0#16)
  ∧ State.reset.divCount = 0 ∧ State.reset.periodCount = 0
  ∧ (∀ c, State.reset.fill.get c = none ∧ State.reset.bootMapped.get c = true
      ∧ State.reset.cacheEn.get c = false ∧ State.reset.dreq.get c = false)
  ∧ State.reset.vblank = false ∧ State.reset.hblank = false ∧ State.reset.log = []
  ∧ State.reset.aden = false ∧ State.reset.fm = false ∧ State.reset.sel = .b0
  ∧ State.reset.dreqActive = false ∧ State.reset.unmarked ∧ State.reset.cfg.problem = none

/-- `SERIALIZE` records the walk and the stream it is written as and changes nothing else, and
deserializing the stream restores every field that the walk holds, into any state whose configuration has
the same `SERIAL_FORMAT` (70_reset R366, 10_state R72, 00_scope R10). What a restore leaves as it was is the
model's choice (assumption 28); the format is free (assumption 15). -/
def Obligations.SerializeRoundTrips : Prop :=
  ∀ (s t : State),
    exec (.serialize .env) s =
      .next ({ s with log := s.log ++ [Event.serialized (walk s) (serialize s)] }.done .env .done)
    ∧ (t.cfg.serialFormat = s.cfg.serialFormat → deserialize (serialize s) t = some { s with
        cfg := t.cfg, log := t.log, fault := t.fault, refused := t.refused, script := t.script,
        turns := t.turns, reply := t.reply, draws := t.draws })

/-! ## Rules of the whole machine -/

/-- The invariant holds of the state after reset. -/
def Obligations.InvariantHoldsAfterReset : Prop := State.reset.Inv

/-- Every step keeps the invariant: queues within their capacity, values within their open widths, words
left while a transfer is active, fills inside the bank, memories in canonical form and inside their
arrays (10_state R34, R40, R51, R55; 42_dreq_bridge R240, R245; 43_framebuffer_arbiter R284, R286). -/
def Obligations.EveryStepKeepsTheInvariant : Prop :=
  ∀ (s t : State), s.Inv → step s = .next t → t.Inv

/-- No transaction of a core changes an engaged framebuffer or palette (43_framebuffer_arbiter R288). -/
def Obligations.EngagementExcludesTheCores : Prop :=
  ∀ (i : Instr) (c : CoreId) (s t : State), i.agent = .core c → exec i s = .next t →
    (s.engagedFb = true → t.dram = s.dram) ∧ (s.engagedPal = true → t.palette = s.palette)

/-- A core changes neither the other core's interrupt block, DMA channels, fill, windows and cache RAM, nor
`ADAPTER_CTRL`, `BANK_SELECT` and the DREQ registers; the host changes no core's (60_exceptions R339). -/
def Obligations.AgentsLeaveOtherCoresAlone : Prop :=
  ∀ (i : Instr) (c : CoreId) (s t : State), exec i s = .next t →
    (i.agent = .core c.other ∨ i.agent = .host) →
    (∀ x, t.latch c x = s.latch c x) ∧ (∀ ch, t.chan c ch = s.chan c ch)
    ∧ t.fill.get c = s.fill.get c ∧ t.bootMapped.get c = s.bootMapped.get c
    ∧ t.cacheEn.get c = s.cacheEn.get c ∧ t.cacheRam.get c = s.cacheRam.get c
    ∧ (i.agent = .core c.other →
        ∀ r ∈ [Latch.adapterCtrl, .bankSelect, .dreqCtrl, .dreqSrcHi, .dreqSrcLo, .dreqDstHi, .dreqDstLo,
               .dreqLen, .dreqFifo], t.reg r = s.reg r)

/-- The FIFO changes in four ways only: a host write to `DREQ_CTRL` or `DREQ_LEN` or a `RESET` empties it,
a host write to `DREQ_FIFO` appends one word where there is room, a poll takes the two oldest words; so no
word is drained twice (42_dreq_bridge R253, R254; 10_state R40). -/
def Obligations.FifoChangesOnlyAtItsEnds : Prop :=
  ∀ (i : Instr) (s t : State), exec i s = .next t →
    t.fifo = s.fifo
    ∨ (t.fifo = []
        ∧ ((∃ kind, i = .reset .env kind)
          ∨ ∃ u l a v r off, i = .wrx .host u l a v ∧ (r = Latch.dreqCtrl ∨ r = Latch.dreqLen)
              ∧ decodeAddr .ext a s = some (.reg (.latch r), off)))
    ∨ (s.dreqActive = true ∧ s.fifo.length < s.cfg.dreqDepth
        ∧ ∃ u l a v off, i = .wrx .host u l a v ∧ decodeAddr .ext a s = some (.reg (.latch .dreqFifo), off)
            ∧ t.fifo = s.fifo ++ [merge16 (s.reg .dreqFifo) v { u := u, l := l }])
    ∨ ∃ c m hi lo, i = .poll (.core c) m ∧ s.fifo = hi :: lo :: t.fifo

/-- The log only grows, but for power-on, and an interrupt is delivered by a `POLL` only, at most one at a
time (10_state R63, 40_interrupt_router R166, R168). -/
def Obligations.OnlyPollDeliversInterrupts : Prop :=
  ∀ (i : Instr) (s t : State), exec i s = .next t → i ≠ .reset .env .power →
    ∃ es, t.log = s.log ++ es
      ∧ (es.filter Event.isException).length ≤ 1
      ∧ ((es.filter Event.isException) ≠ [] →
          ∃ c m x, i = .poll (.core c) m ∧ es = [.exception c x (vectorOf x)])

/-- No step writes the configuration (10_state R60). -/
def Obligations.NoStepWritesTheConfiguration : Prop :=
  ∀ (s t : State), step s = .next t → t.cfg = s.cfg
end

