-- ==== Sys2Proof/Laws/Codec.lean ====
section
/-! SUPPORT. The fields of a word and the word of the fields are inverse to each other (30_encoding R120),
and so are the small codes. -/

namespace Sys2Proof

@[simp] theorem Agent.ofCode_code (ag : Agent) : Agent.ofCode ag.code = ag := by
  cases ag with
  | host => rfl
  | core c => cases c <;> rfl
  | env => rfl

@[simp] theorem Agent.code_ofCode (c : BitVec 2) : (Agent.ofCode c).code = c := by
  revert c; decide

@[simp] theorem Source.ofCode_code (src : Source) : Source.ofCode src.code = some src := by
  cases src <;> rfl

theorem Source.code_of_ofCode (c : BitVec 3) (src : Source) (h : Source.ofCode c = some src) :
    src.code = c := by
  revert c; cases src <;> decide

@[simp] theorem DmaField.ofCode_code (f : DmaField) : DmaField.ofCode f.code = some f := by
  cases f <;> rfl

theorem DmaField.code_of_ofCode (c : BitVec 3) (f : DmaField) (h : DmaField.ofCode c = some f) :
    f.code = c := by
  revert c; cases f <;> decide

@[simp] theorem Channel.ofBit_bit (c : Channel) : Channel.ofBit c.bit = c := by cases c <;> rfl
@[simp] theorem Channel.bit_ofBit (b : Bool) : (Channel.ofBit b).bit = b := by cases b <;> rfl
@[simp] theorem ResetKind.ofBit_bit (k : ResetKind) : ResetKind.ofBit k.bit = k := by cases k <;> rfl
@[simp] theorem ResetKind.bit_ofBit (b : Bool) : (ResetKind.ofBit b).bit = b := by cases b <;> rfl

@[simp] theorem packArg_hi (b : Bool) (c : BitVec 3) : (packArg b c)[3] = b := by
  revert c; cases b <;> decide

@[simp] theorem packArg_low (b : Bool) (c : BitVec 3) : (packArg b c).extractLsb' 0 3 = c := by
  revert c; cases b <;> decide

@[simp] theorem packArg_parts (a : BitVec 4) : packArg (a.getLsbD 3) (a.extractLsb' 0 3) = a := by
  revert a; decide

@[simp] theorem bitArg_bit (b : Bool) : (bitArg b)[0] = b := by cases b <;> rfl
@[simp] theorem bitArg_rest (b : Bool) : (bitArg b).extractLsb' 1 3 = 0#3 := by cases b <;> rfl

theorem bitArg_parts (a : BitVec 4) (h : a.extractLsb' 1 3 = 0#3) : bitArg (a.getLsbD 0) = a := by
  revert a; decide

/-- Every bit of a word is one bit of one field (30_encoding R120). -/
theorem Txn.toWord_getLsbD (t : Txn) (i : Nat) :
    t.toWord.getLsbD i =
      if i < 16 then t.data.getLsbD i
      else if i < 48 then t.addr.getLsbD (i - 16)
      else if i < 52 then t.arg.getLsbD (i - 48)
      else if i < 53 then t.l
      else if i < 54 then t.u
      else if i < 56 then t.ag.getLsbD (i - 54)
      else t.op.getLsbD (i - 56) := by
  unfold Txn.toWord
  simp only [BitVec.getLsbD_append, BitVec.getLsbD_ofBool, Nat.sub_sub]
  by_cases h1 : i < 16
  · simp [h1]
  by_cases h2 : i < 48
  · have : i - 16 < 32 := by omega
    simp [h1, h2, this]
  by_cases h3 : i < 52
  · have a1 : ¬ i - 16 < 32 := by omega
    have a2 : i - 48 < 4 := by omega
    simp [h1, h2, h3, a1, a2]
  have a1 : ¬ i - 16 < 32 := by omega
  have a2 : ¬ i - 48 < 4 := by omega
  by_cases h4 : i < 53
  · have a3 : i = 52 := by omega
    subst a3
    simp
  have a3 : ¬ i - 52 < 1 := by omega
  by_cases h5 : i < 54
  · have a4 : i = 53 := by omega
    subst a4
    simp
  have a4 : ¬ i - 53 < 1 := by omega
  by_cases h6 : i < 56
  · have a5 : i - 54 < 2 := by omega
    simp [h1, h2, h3, h4, h5, h6, a1, a2, a3, a4, a5]
  · have a5 : ¬ i - 54 < 2 := by omega
    simp [h1, h2, h3, h4, h5, h6, a1, a2, a3, a4, a5]

/-- The fields of the word of `t` are those of `t`. -/
@[simp] theorem Txn.ofWord_toWord (t : Txn) : Txn.ofWord t.toWord = t := by
  have hop : t.toWord.extractLsb' 56 8 = t.op := by
    apply BitVec.eq_of_getLsbD_eq
    intro i hi
    have e1 : ¬ 56 + i < 16 := by omega
    have e2 : ¬ 56 + i < 48 := by omega
    have e3 : ¬ 56 + i < 52 := by omega
    have e4 : ¬ 56 + i < 53 := by omega
    have e5 : ¬ 56 + i < 54 := by omega
    have e6 : ¬ 56 + i < 56 := by omega
    have e7 : 56 + i - 56 = i := by omega
    simp only [BitVec.getLsbD_extractLsb', Txn.toWord_getLsbD, e1, e2, e3, e4, e5, e6, e7, hi, if_false, decide_true, Bool.true_and]
  have hag : t.toWord.extractLsb' 54 2 = t.ag := by
    apply BitVec.eq_of_getLsbD_eq
    intro i hi
    have e1 : ¬ 54 + i < 16 := by omega
    have e2 : ¬ 54 + i < 48 := by omega
    have e3 : ¬ 54 + i < 52 := by omega
    have e4 : ¬ 54 + i < 53 := by omega
    have e5 : ¬ 54 + i < 54 := by omega
    have e6 : 54 + i < 56 := by omega
    have e7 : 54 + i - 54 = i := by omega
    simp only [BitVec.getLsbD_extractLsb', Txn.toWord_getLsbD, e1, e2, e3, e4, e5, e6, e7, hi, if_false, if_true, decide_true, Bool.true_and]
  have harg : t.toWord.extractLsb' 48 4 = t.arg := by
    apply BitVec.eq_of_getLsbD_eq
    intro i hi
    have e1 : ¬ 48 + i < 16 := by omega
    have e2 : ¬ 48 + i < 48 := by omega
    have e3 : 48 + i < 52 := by omega
    have e7 : 48 + i - 48 = i := by omega
    simp only [BitVec.getLsbD_extractLsb', Txn.toWord_getLsbD, e1, e2, e3, e7, hi, if_false, if_true, decide_true, Bool.true_and]
  have haddr : t.toWord.extractLsb' 16 32 = t.addr := by
    apply BitVec.eq_of_getLsbD_eq
    intro i hi
    have e1 : ¬ 16 + i < 16 := by omega
    have e2 : 16 + i < 48 := by omega
    have e7 : 16 + i - 16 = i := by omega
    simp only [BitVec.getLsbD_extractLsb', Txn.toWord_getLsbD, e1, e2, e7, hi, if_false, if_true, decide_true, Bool.true_and]
  have hdata : t.toWord.extractLsb' 0 16 = t.data := by
    apply BitVec.eq_of_getLsbD_eq
    intro i hi
    have e7 : 0 + i = i := by omega
    simp only [BitVec.getLsbD_extractLsb', Txn.toWord_getLsbD, e7, hi, if_true, decide_true, Bool.true_and]
  have hu : t.toWord.getLsbD 53 = t.u := by rw [Txn.toWord_getLsbD]; rfl
  have hl : t.toWord.getLsbD 52 = t.l := by rw [Txn.toWord_getLsbD]; rfl
  unfold Txn.ofWord
  rw [hop, hag, harg, haddr, hdata, hu, hl]

/-- The word of the fields of `w` is `w`. -/
@[simp] theorem Txn.toWord_ofWord (w : TxnWord) : (Txn.ofWord w).toWord = w := by
  apply BitVec.eq_of_getLsbD_eq
  intro i hi
  rw [Txn.toWord_getLsbD]
  unfold Txn.ofWord
  simp only [BitVec.getLsbD_extractLsb']
  split_ifs with h1 h2 h3 h4 h5 h6
  · simp [h1]
  · have a : i - 16 < 32 := by omega
    have e : 16 + (i - 16) = i := by omega
    simp [a, e]
  · have a : i - 48 < 4 := by omega
    have e : 48 + (i - 48) = i := by omega
    simp [a, e]
  · have e : i = 52 := by omega
    rw [e]
  · have e : i = 53 := by omega
    rw [e]
  · have a : i - 54 < 2 := by omega
    have e : 54 + (i - 54) = i := by omega
    simp [a, e]
  · have a : i - 56 < 8 := by omega
    have e : 56 + (i - 56) = i := by omega
    simp [a, e]

/-- Decoding the word of `i` is decoding its fields. -/
theorem decode_encode_eq (cb : Nat) (i : Instr) : decode cb (encode i) = decodeTxn cb (encodeTxn i) := by
  simp [decode, encode]

/-- The agent of a transaction's word is its agent. -/
theorem wordAgent_encode (i : Instr) : wordAgent (encode i) = i.agent := by
  unfold wordAgent encode
  rw [Txn.ofWord_toWord]
  cases i <;> simp [encodeTxn, busTxn, argTxn, Instr.agent]

end Sys2Proof
end

