-- ==== Sys2Proof/Laws/State.lean ====
section
/-! SUPPORT. What each named update of the state does to each field, and to the registers, latch pairs
and channels: one lemma per field per update. -/

namespace Sys2Proof.Machine

variable (s : State)

@[simp] theorem setReg_cfg (l : Latch) (v : Half) : (s.setReg l v).cfg = s.cfg := rfl
@[simp] theorem setReg_ib (l : Latch) (v : Half) : (s.setReg l v).ib = s.ib := rfl
@[simp] theorem setReg_dma (l : Latch) (v : Half) : (s.setReg l v).dma = s.dma := rfl
@[simp] theorem setReg_regs (l : Latch) (v : Half) : (s.setReg l v).regs = s.regs.set (Latch.index l).val v := rfl
@[simp] theorem setReg_fifo (l : Latch) (v : Half) : (s.setReg l v).fifo = s.fifo := rfl
@[simp] theorem setReg_remaining (l : Latch) (v : Half) : (s.setReg l v).remaining = s.remaining := rfl
@[simp] theorem setReg_dreq (l : Latch) (v : Half) : (s.setReg l v).dreq = s.dreq := rfl
@[simp] theorem setReg_dram (l : Latch) (v : Half) : (s.setReg l v).dram = s.dram := rfl
@[simp] theorem setReg_palette (l : Latch) (v : Half) : (s.setReg l v).palette = s.palette := rfl
@[simp] theorem setReg_fill (l : Latch) (v : Half) : (s.setReg l v).fill = s.fill := rfl
@[simp] theorem setReg_fillAddrDirty (l : Latch) (v : Half) : (s.setReg l v).fillAddrDirty = s.fillAddrDirty := rfl
@[simp] theorem setReg_vblank (l : Latch) (v : Half) : (s.setReg l v).vblank = s.vblank := rfl
@[simp] theorem setReg_hblank (l : Latch) (v : Half) : (s.setReg l v).hblank = s.hblank := rfl
@[simp] theorem setReg_pwmFifo (l : Latch) (v : Half) : (s.setReg l v).pwmFifo = s.pwmFifo := rfl
@[simp] theorem setReg_pwmOut (l : Latch) (v : Half) : (s.setReg l v).pwmOut = s.pwmOut := rfl
@[simp] theorem setReg_divCount (l : Latch) (v : Half) : (s.setReg l v).divCount = s.divCount := rfl
@[simp] theorem setReg_periodCount (l : Latch) (v : Half) : (s.setReg l v).periodCount = s.periodCount := rfl
@[simp] theorem setReg_bootMapped (l : Latch) (v : Half) : (s.setReg l v).bootMapped = s.bootMapped := rfl
@[simp] theorem setReg_cacheEn (l : Latch) (v : Half) : (s.setReg l v).cacheEn = s.cacheEn := rfl
@[simp] theorem setReg_cacheRam (l : Latch) (v : Half) : (s.setReg l v).cacheRam = s.cacheRam := rfl
@[simp] theorem setReg_sdram (l : Latch) (v : Half) : (s.setReg l v).sdram = s.sdram := rfl
@[simp] theorem setReg_log (l : Latch) (v : Half) : (s.setReg l v).log = s.log := rfl
@[simp] theorem setReg_fault (l : Latch) (v : Half) : (s.setReg l v).fault = s.fault := rfl
@[simp] theorem setReg_refused (l : Latch) (v : Half) : (s.setReg l v).refused = s.refused := rfl
@[simp] theorem setReg_script (l : Latch) (v : Half) : (s.setReg l v).script = s.script := rfl
@[simp] theorem setReg_turns (l : Latch) (v : Half) : (s.setReg l v).turns = s.turns := rfl
@[simp] theorem setReg_reply (l : Latch) (v : Half) : (s.setReg l v).reply = s.reply := rfl
@[simp] theorem setReg_draws (l : Latch) (v : Half) : (s.setReg l v).draws = s.draws := rfl
@[simp] theorem setReg_latch (l : Latch) (v : Half) (d : CoreId) (x : Source) : (s.setReg l v).latch d x = s.latch d x := rfl
@[simp] theorem setReg_chan (l : Latch) (v : Half) (d : CoreId) (h : Channel) : (s.setReg l v).chan d h = s.chan d h := rfl

@[simp] theorem setActive_cfg (c : CoreId) (src : Source) (b : Bool) : (s.setActive c src b).cfg = s.cfg := rfl
@[simp] theorem setActive_ib (c : CoreId) (src : Source) (b : Bool) : (s.setActive c src b).ib = s.ib.set c src { s.ib.get c src with active := b } := rfl
@[simp] theorem setActive_dma (c : CoreId) (src : Source) (b : Bool) : (s.setActive c src b).dma = s.dma := rfl
@[simp] theorem setActive_regs (c : CoreId) (src : Source) (b : Bool) : (s.setActive c src b).regs = s.regs := rfl
@[simp] theorem setActive_fifo (c : CoreId) (src : Source) (b : Bool) : (s.setActive c src b).fifo = s.fifo := rfl
@[simp] theorem setActive_remaining (c : CoreId) (src : Source) (b : Bool) : (s.setActive c src b).remaining = s.remaining := rfl
@[simp] theorem setActive_dreq (c : CoreId) (src : Source) (b : Bool) : (s.setActive c src b).dreq = s.dreq := rfl
@[simp] theorem setActive_dram (c : CoreId) (src : Source) (b : Bool) : (s.setActive c src b).dram = s.dram := rfl
@[simp] theorem setActive_palette (c : CoreId) (src : Source) (b : Bool) : (s.setActive c src b).palette = s.palette := rfl
@[simp] theorem setActive_fill (c : CoreId) (src : Source) (b : Bool) : (s.setActive c src b).fill = s.fill := rfl
@[simp] theorem setActive_fillAddrDirty (c : CoreId) (src : Source) (b : Bool) : (s.setActive c src b).fillAddrDirty = s.fillAddrDirty := rfl
@[simp] theorem setActive_vblank (c : CoreId) (src : Source) (b : Bool) : (s.setActive c src b).vblank = s.vblank := rfl
@[simp] theorem setActive_hblank (c : CoreId) (src : Source) (b : Bool) : (s.setActive c src b).hblank = s.hblank := rfl
@[simp] theorem setActive_pwmFifo (c : CoreId) (src : Source) (b : Bool) : (s.setActive c src b).pwmFifo = s.pwmFifo := rfl
@[simp] theorem setActive_pwmOut (c : CoreId) (src : Source) (b : Bool) : (s.setActive c src b).pwmOut = s.pwmOut := rfl
@[simp] theorem setActive_divCount (c : CoreId) (src : Source) (b : Bool) : (s.setActive c src b).divCount = s.divCount := rfl
@[simp] theorem setActive_periodCount (c : CoreId) (src : Source) (b : Bool) : (s.setActive c src b).periodCount = s.periodCount := rfl
@[simp] theorem setActive_bootMapped (c : CoreId) (src : Source) (b : Bool) : (s.setActive c src b).bootMapped = s.bootMapped := rfl
@[simp] theorem setActive_cacheEn (c : CoreId) (src : Source) (b : Bool) : (s.setActive c src b).cacheEn = s.cacheEn := rfl
@[simp] theorem setActive_cacheRam (c : CoreId) (src : Source) (b : Bool) : (s.setActive c src b).cacheRam = s.cacheRam := rfl
@[simp] theorem setActive_sdram (c : CoreId) (src : Source) (b : Bool) : (s.setActive c src b).sdram = s.sdram := rfl
@[simp] theorem setActive_log (c : CoreId) (src : Source) (b : Bool) : (s.setActive c src b).log = s.log := rfl
@[simp] theorem setActive_fault (c : CoreId) (src : Source) (b : Bool) : (s.setActive c src b).fault = s.fault := rfl
@[simp] theorem setActive_refused (c : CoreId) (src : Source) (b : Bool) : (s.setActive c src b).refused = s.refused := rfl
@[simp] theorem setActive_script (c : CoreId) (src : Source) (b : Bool) : (s.setActive c src b).script = s.script := rfl
@[simp] theorem setActive_turns (c : CoreId) (src : Source) (b : Bool) : (s.setActive c src b).turns = s.turns := rfl
@[simp] theorem setActive_reply (c : CoreId) (src : Source) (b : Bool) : (s.setActive c src b).reply = s.reply := rfl
@[simp] theorem setActive_draws (c : CoreId) (src : Source) (b : Bool) : (s.setActive c src b).draws = s.draws := rfl
@[simp] theorem setActive_reg (c : CoreId) (src : Source) (b : Bool) (x : Latch) : (s.setActive c src b).reg x = s.reg x := rfl
@[simp] theorem setActive_chan (c : CoreId) (src : Source) (b : Bool) (d : CoreId) (h : Channel) : (s.setActive c src b).chan d h = s.chan d h := rfl

@[simp] theorem setEnableBit_cfg (c : CoreId) (src : Source) (b : Bool) : (s.setEnableBit c src b).cfg = s.cfg := rfl
@[simp] theorem setEnableBit_ib (c : CoreId) (src : Source) (b : Bool) : (s.setEnableBit c src b).ib = s.ib.set c src { s.ib.get c src with enable := b } := rfl
@[simp] theorem setEnableBit_dma (c : CoreId) (src : Source) (b : Bool) : (s.setEnableBit c src b).dma = s.dma := rfl
@[simp] theorem setEnableBit_regs (c : CoreId) (src : Source) (b : Bool) : (s.setEnableBit c src b).regs = s.regs := rfl
@[simp] theorem setEnableBit_fifo (c : CoreId) (src : Source) (b : Bool) : (s.setEnableBit c src b).fifo = s.fifo := rfl
@[simp] theorem setEnableBit_remaining (c : CoreId) (src : Source) (b : Bool) : (s.setEnableBit c src b).remaining = s.remaining := rfl
@[simp] theorem setEnableBit_dreq (c : CoreId) (src : Source) (b : Bool) : (s.setEnableBit c src b).dreq = s.dreq := rfl
@[simp] theorem setEnableBit_dram (c : CoreId) (src : Source) (b : Bool) : (s.setEnableBit c src b).dram = s.dram := rfl
@[simp] theorem setEnableBit_palette (c : CoreId) (src : Source) (b : Bool) : (s.setEnableBit c src b).palette = s.palette := rfl
@[simp] theorem setEnableBit_fill (c : CoreId) (src : Source) (b : Bool) : (s.setEnableBit c src b).fill = s.fill := rfl
@[simp] theorem setEnableBit_fillAddrDirty (c : CoreId) (src : Source) (b : Bool) : (s.setEnableBit c src b).fillAddrDirty = s.fillAddrDirty := rfl
@[simp] theorem setEnableBit_vblank (c : CoreId) (src : Source) (b : Bool) : (s.setEnableBit c src b).vblank = s.vblank := rfl
@[simp] theorem setEnableBit_hblank (c : CoreId) (src : Source) (b : Bool) : (s.setEnableBit c src b).hblank = s.hblank := rfl
@[simp] theorem setEnableBit_pwmFifo (c : CoreId) (src : Source) (b : Bool) : (s.setEnableBit c src b).pwmFifo = s.pwmFifo := rfl
@[simp] theorem setEnableBit_pwmOut (c : CoreId) (src : Source) (b : Bool) : (s.setEnableBit c src b).pwmOut = s.pwmOut := rfl
@[simp] theorem setEnableBit_divCount (c : CoreId) (src : Source) (b : Bool) : (s.setEnableBit c src b).divCount = s.divCount := rfl
@[simp] theorem setEnableBit_periodCount (c : CoreId) (src : Source) (b : Bool) : (s.setEnableBit c src b).periodCount = s.periodCount := rfl
@[simp] theorem setEnableBit_bootMapped (c : CoreId) (src : Source) (b : Bool) : (s.setEnableBit c src b).bootMapped = s.bootMapped := rfl
@[simp] theorem setEnableBit_cacheEn (c : CoreId) (src : Source) (b : Bool) : (s.setEnableBit c src b).cacheEn = s.cacheEn := rfl
@[simp] theorem setEnableBit_cacheRam (c : CoreId) (src : Source) (b : Bool) : (s.setEnableBit c src b).cacheRam = s.cacheRam := rfl
@[simp] theorem setEnableBit_sdram (c : CoreId) (src : Source) (b : Bool) : (s.setEnableBit c src b).sdram = s.sdram := rfl
@[simp] theorem setEnableBit_log (c : CoreId) (src : Source) (b : Bool) : (s.setEnableBit c src b).log = s.log := rfl
@[simp] theorem setEnableBit_fault (c : CoreId) (src : Source) (b : Bool) : (s.setEnableBit c src b).fault = s.fault := rfl
@[simp] theorem setEnableBit_refused (c : CoreId) (src : Source) (b : Bool) : (s.setEnableBit c src b).refused = s.refused := rfl
@[simp] theorem setEnableBit_script (c : CoreId) (src : Source) (b : Bool) : (s.setEnableBit c src b).script = s.script := rfl
@[simp] theorem setEnableBit_turns (c : CoreId) (src : Source) (b : Bool) : (s.setEnableBit c src b).turns = s.turns := rfl
@[simp] theorem setEnableBit_reply (c : CoreId) (src : Source) (b : Bool) : (s.setEnableBit c src b).reply = s.reply := rfl
@[simp] theorem setEnableBit_draws (c : CoreId) (src : Source) (b : Bool) : (s.setEnableBit c src b).draws = s.draws := rfl
@[simp] theorem setEnableBit_reg (c : CoreId) (src : Source) (b : Bool) (x : Latch) : (s.setEnableBit c src b).reg x = s.reg x := rfl
@[simp] theorem setEnableBit_chan (c : CoreId) (src : Source) (b : Bool) (d : CoreId) (h : Channel) : (s.setEnableBit c src b).chan d h = s.chan d h := rfl

@[simp] theorem setChan_cfg (c : CoreId) (ch : Channel) (k : DmaChannel) : (s.setChan c ch k).cfg = s.cfg := rfl
@[simp] theorem setChan_ib (c : CoreId) (ch : Channel) (k : DmaChannel) : (s.setChan c ch k).ib = s.ib := rfl
@[simp] theorem setChan_dma (c : CoreId) (ch : Channel) (k : DmaChannel) : (s.setChan c ch k).dma = s.dma.set c ((s.dma.get c).set ch k) := rfl
@[simp] theorem setChan_regs (c : CoreId) (ch : Channel) (k : DmaChannel) : (s.setChan c ch k).regs = s.regs := rfl
@[simp] theorem setChan_fifo (c : CoreId) (ch : Channel) (k : DmaChannel) : (s.setChan c ch k).fifo = s.fifo := rfl
@[simp] theorem setChan_remaining (c : CoreId) (ch : Channel) (k : DmaChannel) : (s.setChan c ch k).remaining = s.remaining := rfl
@[simp] theorem setChan_dreq (c : CoreId) (ch : Channel) (k : DmaChannel) : (s.setChan c ch k).dreq = s.dreq := rfl
@[simp] theorem setChan_dram (c : CoreId) (ch : Channel) (k : DmaChannel) : (s.setChan c ch k).dram = s.dram := rfl
@[simp] theorem setChan_palette (c : CoreId) (ch : Channel) (k : DmaChannel) : (s.setChan c ch k).palette = s.palette := rfl
@[simp] theorem setChan_fill (c : CoreId) (ch : Channel) (k : DmaChannel) : (s.setChan c ch k).fill = s.fill := rfl
@[simp] theorem setChan_fillAddrDirty (c : CoreId) (ch : Channel) (k : DmaChannel) : (s.setChan c ch k).fillAddrDirty = s.fillAddrDirty := rfl
@[simp] theorem setChan_vblank (c : CoreId) (ch : Channel) (k : DmaChannel) : (s.setChan c ch k).vblank = s.vblank := rfl
@[simp] theorem setChan_hblank (c : CoreId) (ch : Channel) (k : DmaChannel) : (s.setChan c ch k).hblank = s.hblank := rfl
@[simp] theorem setChan_pwmFifo (c : CoreId) (ch : Channel) (k : DmaChannel) : (s.setChan c ch k).pwmFifo = s.pwmFifo := rfl
@[simp] theorem setChan_pwmOut (c : CoreId) (ch : Channel) (k : DmaChannel) : (s.setChan c ch k).pwmOut = s.pwmOut := rfl
@[simp] theorem setChan_divCount (c : CoreId) (ch : Channel) (k : DmaChannel) : (s.setChan c ch k).divCount = s.divCount := rfl
@[simp] theorem setChan_periodCount (c : CoreId) (ch : Channel) (k : DmaChannel) : (s.setChan c ch k).periodCount = s.periodCount := rfl
@[simp] theorem setChan_bootMapped (c : CoreId) (ch : Channel) (k : DmaChannel) : (s.setChan c ch k).bootMapped = s.bootMapped := rfl
@[simp] theorem setChan_cacheEn (c : CoreId) (ch : Channel) (k : DmaChannel) : (s.setChan c ch k).cacheEn = s.cacheEn := rfl
@[simp] theorem setChan_cacheRam (c : CoreId) (ch : Channel) (k : DmaChannel) : (s.setChan c ch k).cacheRam = s.cacheRam := rfl
@[simp] theorem setChan_sdram (c : CoreId) (ch : Channel) (k : DmaChannel) : (s.setChan c ch k).sdram = s.sdram := rfl
@[simp] theorem setChan_log (c : CoreId) (ch : Channel) (k : DmaChannel) : (s.setChan c ch k).log = s.log := rfl
@[simp] theorem setChan_fault (c : CoreId) (ch : Channel) (k : DmaChannel) : (s.setChan c ch k).fault = s.fault := rfl
@[simp] theorem setChan_refused (c : CoreId) (ch : Channel) (k : DmaChannel) : (s.setChan c ch k).refused = s.refused := rfl
@[simp] theorem setChan_script (c : CoreId) (ch : Channel) (k : DmaChannel) : (s.setChan c ch k).script = s.script := rfl
@[simp] theorem setChan_turns (c : CoreId) (ch : Channel) (k : DmaChannel) : (s.setChan c ch k).turns = s.turns := rfl
@[simp] theorem setChan_reply (c : CoreId) (ch : Channel) (k : DmaChannel) : (s.setChan c ch k).reply = s.reply := rfl
@[simp] theorem setChan_draws (c : CoreId) (ch : Channel) (k : DmaChannel) : (s.setChan c ch k).draws = s.draws := rfl
@[simp] theorem setChan_reg (c : CoreId) (ch : Channel) (k : DmaChannel) (x : Latch) : (s.setChan c ch k).reg x = s.reg x := rfl
@[simp] theorem setChan_latch (c : CoreId) (ch : Channel) (k : DmaChannel) (d : CoreId) (x : Source) : (s.setChan c ch k).latch d x = s.latch d x := rfl

@[simp] theorem setFill_cfg (c : CoreId) (f : Option Fill) : (s.setFill c f).cfg = s.cfg := rfl
@[simp] theorem setFill_ib (c : CoreId) (f : Option Fill) : (s.setFill c f).ib = s.ib := rfl
@[simp] theorem setFill_dma (c : CoreId) (f : Option Fill) : (s.setFill c f).dma = s.dma := rfl
@[simp] theorem setFill_regs (c : CoreId) (f : Option Fill) : (s.setFill c f).regs = s.regs := rfl
@[simp] theorem setFill_fifo (c : CoreId) (f : Option Fill) : (s.setFill c f).fifo = s.fifo := rfl
@[simp] theorem setFill_remaining (c : CoreId) (f : Option Fill) : (s.setFill c f).remaining = s.remaining := rfl
@[simp] theorem setFill_dreq (c : CoreId) (f : Option Fill) : (s.setFill c f).dreq = s.dreq := rfl
@[simp] theorem setFill_dram (c : CoreId) (f : Option Fill) : (s.setFill c f).dram = s.dram := rfl
@[simp] theorem setFill_palette (c : CoreId) (f : Option Fill) : (s.setFill c f).palette = s.palette := rfl
@[simp] theorem setFill_fill (c : CoreId) (f : Option Fill) : (s.setFill c f).fill = s.fill.set c f := rfl
@[simp] theorem setFill_fillAddrDirty (c : CoreId) (f : Option Fill) : (s.setFill c f).fillAddrDirty = s.fillAddrDirty := rfl
@[simp] theorem setFill_vblank (c : CoreId) (f : Option Fill) : (s.setFill c f).vblank = s.vblank := rfl
@[simp] theorem setFill_hblank (c : CoreId) (f : Option Fill) : (s.setFill c f).hblank = s.hblank := rfl
@[simp] theorem setFill_pwmFifo (c : CoreId) (f : Option Fill) : (s.setFill c f).pwmFifo = s.pwmFifo := rfl
@[simp] theorem setFill_pwmOut (c : CoreId) (f : Option Fill) : (s.setFill c f).pwmOut = s.pwmOut := rfl
@[simp] theorem setFill_divCount (c : CoreId) (f : Option Fill) : (s.setFill c f).divCount = s.divCount := rfl
@[simp] theorem setFill_periodCount (c : CoreId) (f : Option Fill) : (s.setFill c f).periodCount = s.periodCount := rfl
@[simp] theorem setFill_bootMapped (c : CoreId) (f : Option Fill) : (s.setFill c f).bootMapped = s.bootMapped := rfl
@[simp] theorem setFill_cacheEn (c : CoreId) (f : Option Fill) : (s.setFill c f).cacheEn = s.cacheEn := rfl
@[simp] theorem setFill_cacheRam (c : CoreId) (f : Option Fill) : (s.setFill c f).cacheRam = s.cacheRam := rfl
@[simp] theorem setFill_sdram (c : CoreId) (f : Option Fill) : (s.setFill c f).sdram = s.sdram := rfl
@[simp] theorem setFill_log (c : CoreId) (f : Option Fill) : (s.setFill c f).log = s.log := rfl
@[simp] theorem setFill_fault (c : CoreId) (f : Option Fill) : (s.setFill c f).fault = s.fault := rfl
@[simp] theorem setFill_refused (c : CoreId) (f : Option Fill) : (s.setFill c f).refused = s.refused := rfl
@[simp] theorem setFill_script (c : CoreId) (f : Option Fill) : (s.setFill c f).script = s.script := rfl
@[simp] theorem setFill_turns (c : CoreId) (f : Option Fill) : (s.setFill c f).turns = s.turns := rfl
@[simp] theorem setFill_reply (c : CoreId) (f : Option Fill) : (s.setFill c f).reply = s.reply := rfl
@[simp] theorem setFill_draws (c : CoreId) (f : Option Fill) : (s.setFill c f).draws = s.draws := rfl
@[simp] theorem setFill_reg (c : CoreId) (f : Option Fill) (x : Latch) : (s.setFill c f).reg x = s.reg x := rfl
@[simp] theorem setFill_latch (c : CoreId) (f : Option Fill) (d : CoreId) (x : Source) : (s.setFill c f).latch d x = s.latch d x := rfl
@[simp] theorem setFill_chan (c : CoreId) (f : Option Fill) (d : CoreId) (h : Channel) : (s.setFill c f).chan d h = s.chan d h := rfl

@[simp] theorem setDram_cfg (b : Bank) (m : Memory) : (s.setDram b m).cfg = s.cfg := rfl
@[simp] theorem setDram_ib (b : Bank) (m : Memory) : (s.setDram b m).ib = s.ib := rfl
@[simp] theorem setDram_dma (b : Bank) (m : Memory) : (s.setDram b m).dma = s.dma := rfl
@[simp] theorem setDram_regs (b : Bank) (m : Memory) : (s.setDram b m).regs = s.regs := rfl
@[simp] theorem setDram_fifo (b : Bank) (m : Memory) : (s.setDram b m).fifo = s.fifo := rfl
@[simp] theorem setDram_remaining (b : Bank) (m : Memory) : (s.setDram b m).remaining = s.remaining := rfl
@[simp] theorem setDram_dreq (b : Bank) (m : Memory) : (s.setDram b m).dreq = s.dreq := rfl
@[simp] theorem setDram_dram (b : Bank) (m : Memory) : (s.setDram b m).dram = s.dram.set b m := rfl
@[simp] theorem setDram_palette (b : Bank) (m : Memory) : (s.setDram b m).palette = s.palette := rfl
@[simp] theorem setDram_fill (b : Bank) (m : Memory) : (s.setDram b m).fill = s.fill := rfl
@[simp] theorem setDram_fillAddrDirty (b : Bank) (m : Memory) : (s.setDram b m).fillAddrDirty = s.fillAddrDirty := rfl
@[simp] theorem setDram_vblank (b : Bank) (m : Memory) : (s.setDram b m).vblank = s.vblank := rfl
@[simp] theorem setDram_hblank (b : Bank) (m : Memory) : (s.setDram b m).hblank = s.hblank := rfl
@[simp] theorem setDram_pwmFifo (b : Bank) (m : Memory) : (s.setDram b m).pwmFifo = s.pwmFifo := rfl
@[simp] theorem setDram_pwmOut (b : Bank) (m : Memory) : (s.setDram b m).pwmOut = s.pwmOut := rfl
@[simp] theorem setDram_divCount (b : Bank) (m : Memory) : (s.setDram b m).divCount = s.divCount := rfl
@[simp] theorem setDram_periodCount (b : Bank) (m : Memory) : (s.setDram b m).periodCount = s.periodCount := rfl
@[simp] theorem setDram_bootMapped (b : Bank) (m : Memory) : (s.setDram b m).bootMapped = s.bootMapped := rfl
@[simp] theorem setDram_cacheEn (b : Bank) (m : Memory) : (s.setDram b m).cacheEn = s.cacheEn := rfl
@[simp] theorem setDram_cacheRam (b : Bank) (m : Memory) : (s.setDram b m).cacheRam = s.cacheRam := rfl
@[simp] theorem setDram_sdram (b : Bank) (m : Memory) : (s.setDram b m).sdram = s.sdram := rfl
@[simp] theorem setDram_log (b : Bank) (m : Memory) : (s.setDram b m).log = s.log := rfl
@[simp] theorem setDram_fault (b : Bank) (m : Memory) : (s.setDram b m).fault = s.fault := rfl
@[simp] theorem setDram_refused (b : Bank) (m : Memory) : (s.setDram b m).refused = s.refused := rfl
@[simp] theorem setDram_script (b : Bank) (m : Memory) : (s.setDram b m).script = s.script := rfl
@[simp] theorem setDram_turns (b : Bank) (m : Memory) : (s.setDram b m).turns = s.turns := rfl
@[simp] theorem setDram_reply (b : Bank) (m : Memory) : (s.setDram b m).reply = s.reply := rfl
@[simp] theorem setDram_draws (b : Bank) (m : Memory) : (s.setDram b m).draws = s.draws := rfl
@[simp] theorem setDram_reg (b : Bank) (m : Memory) (x : Latch) : (s.setDram b m).reg x = s.reg x := rfl
@[simp] theorem setDram_latch (b : Bank) (m : Memory) (d : CoreId) (x : Source) : (s.setDram b m).latch d x = s.latch d x := rfl
@[simp] theorem setDram_chan (b : Bank) (m : Memory) (d : CoreId) (h : Channel) : (s.setDram b m).chan d h = s.chan d h := rfl

@[simp] theorem setColor_cfg (i : Nat) (v : Color) : (s.setColor i v).cfg = s.cfg := rfl
@[simp] theorem setColor_ib (i : Nat) (v : Color) : (s.setColor i v).ib = s.ib := rfl
@[simp] theorem setColor_dma (i : Nat) (v : Color) : (s.setColor i v).dma = s.dma := rfl
@[simp] theorem setColor_regs (i : Nat) (v : Color) : (s.setColor i v).regs = s.regs := rfl
@[simp] theorem setColor_fifo (i : Nat) (v : Color) : (s.setColor i v).fifo = s.fifo := rfl
@[simp] theorem setColor_remaining (i : Nat) (v : Color) : (s.setColor i v).remaining = s.remaining := rfl
@[simp] theorem setColor_dreq (i : Nat) (v : Color) : (s.setColor i v).dreq = s.dreq := rfl
@[simp] theorem setColor_dram (i : Nat) (v : Color) : (s.setColor i v).dram = s.dram := rfl
@[simp] theorem setColor_palette (i : Nat) (v : Color) : (s.setColor i v).palette = Mem.set s.palette i v := rfl
@[simp] theorem setColor_fill (i : Nat) (v : Color) : (s.setColor i v).fill = s.fill := rfl
@[simp] theorem setColor_fillAddrDirty (i : Nat) (v : Color) : (s.setColor i v).fillAddrDirty = s.fillAddrDirty := rfl
@[simp] theorem setColor_vblank (i : Nat) (v : Color) : (s.setColor i v).vblank = s.vblank := rfl
@[simp] theorem setColor_hblank (i : Nat) (v : Color) : (s.setColor i v).hblank = s.hblank := rfl
@[simp] theorem setColor_pwmFifo (i : Nat) (v : Color) : (s.setColor i v).pwmFifo = s.pwmFifo := rfl
@[simp] theorem setColor_pwmOut (i : Nat) (v : Color) : (s.setColor i v).pwmOut = s.pwmOut := rfl
@[simp] theorem setColor_divCount (i : Nat) (v : Color) : (s.setColor i v).divCount = s.divCount := rfl
@[simp] theorem setColor_periodCount (i : Nat) (v : Color) : (s.setColor i v).periodCount = s.periodCount := rfl
@[simp] theorem setColor_bootMapped (i : Nat) (v : Color) : (s.setColor i v).bootMapped = s.bootMapped := rfl
@[simp] theorem setColor_cacheEn (i : Nat) (v : Color) : (s.setColor i v).cacheEn = s.cacheEn := rfl
@[simp] theorem setColor_cacheRam (i : Nat) (v : Color) : (s.setColor i v).cacheRam = s.cacheRam := rfl
@[simp] theorem setColor_sdram (i : Nat) (v : Color) : (s.setColor i v).sdram = s.sdram := rfl
@[simp] theorem setColor_log (i : Nat) (v : Color) : (s.setColor i v).log = s.log := rfl
@[simp] theorem setColor_fault (i : Nat) (v : Color) : (s.setColor i v).fault = s.fault := rfl
@[simp] theorem setColor_refused (i : Nat) (v : Color) : (s.setColor i v).refused = s.refused := rfl
@[simp] theorem setColor_script (i : Nat) (v : Color) : (s.setColor i v).script = s.script := rfl
@[simp] theorem setColor_turns (i : Nat) (v : Color) : (s.setColor i v).turns = s.turns := rfl
@[simp] theorem setColor_reply (i : Nat) (v : Color) : (s.setColor i v).reply = s.reply := rfl
@[simp] theorem setColor_draws (i : Nat) (v : Color) : (s.setColor i v).draws = s.draws := rfl
@[simp] theorem setColor_reg (i : Nat) (v : Color) (x : Latch) : (s.setColor i v).reg x = s.reg x := rfl
@[simp] theorem setColor_latch (i : Nat) (v : Color) (d : CoreId) (x : Source) : (s.setColor i v).latch d x = s.latch d x := rfl
@[simp] theorem setColor_chan (i : Nat) (v : Color) (d : CoreId) (h : Channel) : (s.setColor i v).chan d h = s.chan d h := rfl

@[simp] theorem setCacheRam_cfg (c : CoreId) (m : Memory) : (s.setCacheRam c m).cfg = s.cfg := rfl
@[simp] theorem setCacheRam_ib (c : CoreId) (m : Memory) : (s.setCacheRam c m).ib = s.ib := rfl
@[simp] theorem setCacheRam_dma (c : CoreId) (m : Memory) : (s.setCacheRam c m).dma = s.dma := rfl
@[simp] theorem setCacheRam_regs (c : CoreId) (m : Memory) : (s.setCacheRam c m).regs = s.regs := rfl
@[simp] theorem setCacheRam_fifo (c : CoreId) (m : Memory) : (s.setCacheRam c m).fifo = s.fifo := rfl
@[simp] theorem setCacheRam_remaining (c : CoreId) (m : Memory) : (s.setCacheRam c m).remaining = s.remaining := rfl
@[simp] theorem setCacheRam_dreq (c : CoreId) (m : Memory) : (s.setCacheRam c m).dreq = s.dreq := rfl
@[simp] theorem setCacheRam_dram (c : CoreId) (m : Memory) : (s.setCacheRam c m).dram = s.dram := rfl
@[simp] theorem setCacheRam_palette (c : CoreId) (m : Memory) : (s.setCacheRam c m).palette = s.palette := rfl
@[simp] theorem setCacheRam_fill (c : CoreId) (m : Memory) : (s.setCacheRam c m).fill = s.fill := rfl
@[simp] theorem setCacheRam_fillAddrDirty (c : CoreId) (m : Memory) : (s.setCacheRam c m).fillAddrDirty = s.fillAddrDirty := rfl
@[simp] theorem setCacheRam_vblank (c : CoreId) (m : Memory) : (s.setCacheRam c m).vblank = s.vblank := rfl
@[simp] theorem setCacheRam_hblank (c : CoreId) (m : Memory) : (s.setCacheRam c m).hblank = s.hblank := rfl
@[simp] theorem setCacheRam_pwmFifo (c : CoreId) (m : Memory) : (s.setCacheRam c m).pwmFifo = s.pwmFifo := rfl
@[simp] theorem setCacheRam_pwmOut (c : CoreId) (m : Memory) : (s.setCacheRam c m).pwmOut = s.pwmOut := rfl
@[simp] theorem setCacheRam_divCount (c : CoreId) (m : Memory) : (s.setCacheRam c m).divCount = s.divCount := rfl
@[simp] theorem setCacheRam_periodCount (c : CoreId) (m : Memory) : (s.setCacheRam c m).periodCount = s.periodCount := rfl
@[simp] theorem setCacheRam_bootMapped (c : CoreId) (m : Memory) : (s.setCacheRam c m).bootMapped = s.bootMapped := rfl
@[simp] theorem setCacheRam_cacheEn (c : CoreId) (m : Memory) : (s.setCacheRam c m).cacheEn = s.cacheEn := rfl
@[simp] theorem setCacheRam_cacheRam (c : CoreId) (m : Memory) : (s.setCacheRam c m).cacheRam = s.cacheRam.set c m := rfl
@[simp] theorem setCacheRam_sdram (c : CoreId) (m : Memory) : (s.setCacheRam c m).sdram = s.sdram := rfl
@[simp] theorem setCacheRam_log (c : CoreId) (m : Memory) : (s.setCacheRam c m).log = s.log := rfl
@[simp] theorem setCacheRam_fault (c : CoreId) (m : Memory) : (s.setCacheRam c m).fault = s.fault := rfl
@[simp] theorem setCacheRam_refused (c : CoreId) (m : Memory) : (s.setCacheRam c m).refused = s.refused := rfl
@[simp] theorem setCacheRam_script (c : CoreId) (m : Memory) : (s.setCacheRam c m).script = s.script := rfl
@[simp] theorem setCacheRam_turns (c : CoreId) (m : Memory) : (s.setCacheRam c m).turns = s.turns := rfl
@[simp] theorem setCacheRam_reply (c : CoreId) (m : Memory) : (s.setCacheRam c m).reply = s.reply := rfl
@[simp] theorem setCacheRam_draws (c : CoreId) (m : Memory) : (s.setCacheRam c m).draws = s.draws := rfl
@[simp] theorem setCacheRam_reg (c : CoreId) (m : Memory) (x : Latch) : (s.setCacheRam c m).reg x = s.reg x := rfl
@[simp] theorem setCacheRam_latch (c : CoreId) (m : Memory) (d : CoreId) (x : Source) : (s.setCacheRam c m).latch d x = s.latch d x := rfl
@[simp] theorem setCacheRam_chan (c : CoreId) (m : Memory) (d : CoreId) (h : Channel) : (s.setCacheRam c m).chan d h = s.chan d h := rfl

@[simp] theorem addLog_cfg (e : Event) : (s.addLog e).cfg = s.cfg := rfl
@[simp] theorem addLog_ib (e : Event) : (s.addLog e).ib = s.ib := rfl
@[simp] theorem addLog_dma (e : Event) : (s.addLog e).dma = s.dma := rfl
@[simp] theorem addLog_regs (e : Event) : (s.addLog e).regs = s.regs := rfl
@[simp] theorem addLog_fifo (e : Event) : (s.addLog e).fifo = s.fifo := rfl
@[simp] theorem addLog_remaining (e : Event) : (s.addLog e).remaining = s.remaining := rfl
@[simp] theorem addLog_dreq (e : Event) : (s.addLog e).dreq = s.dreq := rfl
@[simp] theorem addLog_dram (e : Event) : (s.addLog e).dram = s.dram := rfl
@[simp] theorem addLog_palette (e : Event) : (s.addLog e).palette = s.palette := rfl
@[simp] theorem addLog_fill (e : Event) : (s.addLog e).fill = s.fill := rfl
@[simp] theorem addLog_fillAddrDirty (e : Event) : (s.addLog e).fillAddrDirty = s.fillAddrDirty := rfl
@[simp] theorem addLog_vblank (e : Event) : (s.addLog e).vblank = s.vblank := rfl
@[simp] theorem addLog_hblank (e : Event) : (s.addLog e).hblank = s.hblank := rfl
@[simp] theorem addLog_pwmFifo (e : Event) : (s.addLog e).pwmFifo = s.pwmFifo := rfl
@[simp] theorem addLog_pwmOut (e : Event) : (s.addLog e).pwmOut = s.pwmOut := rfl
@[simp] theorem addLog_divCount (e : Event) : (s.addLog e).divCount = s.divCount := rfl
@[simp] theorem addLog_periodCount (e : Event) : (s.addLog e).periodCount = s.periodCount := rfl
@[simp] theorem addLog_bootMapped (e : Event) : (s.addLog e).bootMapped = s.bootMapped := rfl
@[simp] theorem addLog_cacheEn (e : Event) : (s.addLog e).cacheEn = s.cacheEn := rfl
@[simp] theorem addLog_cacheRam (e : Event) : (s.addLog e).cacheRam = s.cacheRam := rfl
@[simp] theorem addLog_sdram (e : Event) : (s.addLog e).sdram = s.sdram := rfl
@[simp] theorem addLog_log (e : Event) : (s.addLog e).log = s.log ++ [e] := rfl
@[simp] theorem addLog_fault (e : Event) : (s.addLog e).fault = s.fault := rfl
@[simp] theorem addLog_refused (e : Event) : (s.addLog e).refused = s.refused := rfl
@[simp] theorem addLog_script (e : Event) : (s.addLog e).script = s.script := rfl
@[simp] theorem addLog_turns (e : Event) : (s.addLog e).turns = s.turns := rfl
@[simp] theorem addLog_reply (e : Event) : (s.addLog e).reply = s.reply := rfl
@[simp] theorem addLog_draws (e : Event) : (s.addLog e).draws = s.draws := rfl
@[simp] theorem addLog_reg (e : Event) (x : Latch) : (s.addLog e).reg x = s.reg x := rfl
@[simp] theorem addLog_latch (e : Event) (d : CoreId) (x : Source) : (s.addLog e).latch d x = s.latch d x := rfl
@[simp] theorem addLog_chan (e : Event) (d : CoreId) (h : Channel) : (s.addLog e).chan d h = s.chan d h := rfl

@[simp] theorem retire_cfg (ag : Agent) : (s.retire ag).cfg = s.cfg := rfl
@[simp] theorem retire_ib (ag : Agent) : (s.retire ag).ib = s.ib := rfl
@[simp] theorem retire_dma (ag : Agent) : (s.retire ag).dma = s.dma := rfl
@[simp] theorem retire_regs (ag : Agent) : (s.retire ag).regs = s.regs := rfl
@[simp] theorem retire_fifo (ag : Agent) : (s.retire ag).fifo = s.fifo := rfl
@[simp] theorem retire_remaining (ag : Agent) : (s.retire ag).remaining = s.remaining := rfl
@[simp] theorem retire_dreq (ag : Agent) : (s.retire ag).dreq = s.dreq := rfl
@[simp] theorem retire_dram (ag : Agent) : (s.retire ag).dram = s.dram := rfl
@[simp] theorem retire_palette (ag : Agent) : (s.retire ag).palette = s.palette := rfl
@[simp] theorem retire_fill (ag : Agent) : (s.retire ag).fill = s.fill := rfl
@[simp] theorem retire_fillAddrDirty (ag : Agent) : (s.retire ag).fillAddrDirty = s.fillAddrDirty := rfl
@[simp] theorem retire_vblank (ag : Agent) : (s.retire ag).vblank = s.vblank := rfl
@[simp] theorem retire_hblank (ag : Agent) : (s.retire ag).hblank = s.hblank := rfl
@[simp] theorem retire_pwmFifo (ag : Agent) : (s.retire ag).pwmFifo = s.pwmFifo := rfl
@[simp] theorem retire_pwmOut (ag : Agent) : (s.retire ag).pwmOut = s.pwmOut := rfl
@[simp] theorem retire_divCount (ag : Agent) : (s.retire ag).divCount = s.divCount := rfl
@[simp] theorem retire_periodCount (ag : Agent) : (s.retire ag).periodCount = s.periodCount := rfl
@[simp] theorem retire_bootMapped (ag : Agent) : (s.retire ag).bootMapped = s.bootMapped := rfl
@[simp] theorem retire_cacheEn (ag : Agent) : (s.retire ag).cacheEn = s.cacheEn := rfl
@[simp] theorem retire_cacheRam (ag : Agent) : (s.retire ag).cacheRam = s.cacheRam := rfl
@[simp] theorem retire_sdram (ag : Agent) : (s.retire ag).sdram = s.sdram := rfl
@[simp] theorem retire_log (ag : Agent) : (s.retire ag).log = s.log := rfl
@[simp] theorem retire_fault (ag : Agent) : (s.retire ag).fault = s.fault := rfl
@[simp] theorem retire_refused (ag : Agent) : (s.retire ag).refused = s.refused := rfl
@[simp] theorem retire_script (ag : Agent) : (s.retire ag).script = dropFirst ag s.script := rfl
@[simp] theorem retire_turns (ag : Agent) : (s.retire ag).turns = s.turns := rfl
@[simp] theorem retire_reply (ag : Agent) : (s.retire ag).reply = s.reply := rfl
@[simp] theorem retire_draws (ag : Agent) : (s.retire ag).draws = s.draws := rfl
@[simp] theorem retire_reg (ag : Agent) (x : Latch) : (s.retire ag).reg x = s.reg x := rfl
@[simp] theorem retire_latch (ag : Agent) (d : CoreId) (x : Source) : (s.retire ag).latch d x = s.latch d x := rfl
@[simp] theorem retire_chan (ag : Agent) (d : CoreId) (h : Channel) : (s.retire ag).chan d h = s.chan d h := rfl

@[simp] theorem answer_cfg (ag : Agent) (r : Reply) : (s.answer ag r).cfg = s.cfg := rfl
@[simp] theorem answer_ib (ag : Agent) (r : Reply) : (s.answer ag r).ib = s.ib := rfl
@[simp] theorem answer_dma (ag : Agent) (r : Reply) : (s.answer ag r).dma = s.dma := rfl
@[simp] theorem answer_regs (ag : Agent) (r : Reply) : (s.answer ag r).regs = s.regs := rfl
@[simp] theorem answer_fifo (ag : Agent) (r : Reply) : (s.answer ag r).fifo = s.fifo := rfl
@[simp] theorem answer_remaining (ag : Agent) (r : Reply) : (s.answer ag r).remaining = s.remaining := rfl
@[simp] theorem answer_dreq (ag : Agent) (r : Reply) : (s.answer ag r).dreq = s.dreq := rfl
@[simp] theorem answer_dram (ag : Agent) (r : Reply) : (s.answer ag r).dram = s.dram := rfl
@[simp] theorem answer_palette (ag : Agent) (r : Reply) : (s.answer ag r).palette = s.palette := rfl
@[simp] theorem answer_fill (ag : Agent) (r : Reply) : (s.answer ag r).fill = s.fill := rfl
@[simp] theorem answer_fillAddrDirty (ag : Agent) (r : Reply) : (s.answer ag r).fillAddrDirty = s.fillAddrDirty := rfl
@[simp] theorem answer_vblank (ag : Agent) (r : Reply) : (s.answer ag r).vblank = s.vblank := rfl
@[simp] theorem answer_hblank (ag : Agent) (r : Reply) : (s.answer ag r).hblank = s.hblank := rfl
@[simp] theorem answer_pwmFifo (ag : Agent) (r : Reply) : (s.answer ag r).pwmFifo = s.pwmFifo := rfl
@[simp] theorem answer_pwmOut (ag : Agent) (r : Reply) : (s.answer ag r).pwmOut = s.pwmOut := rfl
@[simp] theorem answer_divCount (ag : Agent) (r : Reply) : (s.answer ag r).divCount = s.divCount := rfl
@[simp] theorem answer_periodCount (ag : Agent) (r : Reply) : (s.answer ag r).periodCount = s.periodCount := rfl
@[simp] theorem answer_bootMapped (ag : Agent) (r : Reply) : (s.answer ag r).bootMapped = s.bootMapped := rfl
@[simp] theorem answer_cacheEn (ag : Agent) (r : Reply) : (s.answer ag r).cacheEn = s.cacheEn := rfl
@[simp] theorem answer_cacheRam (ag : Agent) (r : Reply) : (s.answer ag r).cacheRam = s.cacheRam := rfl
@[simp] theorem answer_sdram (ag : Agent) (r : Reply) : (s.answer ag r).sdram = s.sdram := rfl
@[simp] theorem answer_log (ag : Agent) (r : Reply) : (s.answer ag r).log = s.log := rfl
@[simp] theorem answer_fault (ag : Agent) (r : Reply) : (s.answer ag r).fault = s.fault := rfl
@[simp] theorem answer_refused (ag : Agent) (r : Reply) : (s.answer ag r).refused = s.refused := rfl
@[simp] theorem answer_script (ag : Agent) (r : Reply) : (s.answer ag r).script = s.script := rfl
@[simp] theorem answer_turns (ag : Agent) (r : Reply) : (s.answer ag r).turns = s.turns := rfl
@[simp] theorem answer_reply (ag : Agent) (r : Reply) : (s.answer ag r).reply = some (ag, r) := rfl
@[simp] theorem answer_draws (ag : Agent) (r : Reply) : (s.answer ag r).draws = s.draws := rfl
@[simp] theorem answer_reg (ag : Agent) (r : Reply) (x : Latch) : (s.answer ag r).reg x = s.reg x := rfl
@[simp] theorem answer_latch (ag : Agent) (r : Reply) (d : CoreId) (x : Source) : (s.answer ag r).latch d x = s.latch d x := rfl
@[simp] theorem answer_chan (ag : Agent) (r : Reply) (d : CoreId) (h : Channel) : (s.answer ag r).chan d h = s.chan d h := rfl

@[simp] theorem done_cfg (ag : Agent) (r : Reply) : (s.done ag r).cfg = s.cfg := rfl
@[simp] theorem done_ib (ag : Agent) (r : Reply) : (s.done ag r).ib = s.ib := rfl
@[simp] theorem done_dma (ag : Agent) (r : Reply) : (s.done ag r).dma = s.dma := rfl
@[simp] theorem done_regs (ag : Agent) (r : Reply) : (s.done ag r).regs = s.regs := rfl
@[simp] theorem done_fifo (ag : Agent) (r : Reply) : (s.done ag r).fifo = s.fifo := rfl
@[simp] theorem done_remaining (ag : Agent) (r : Reply) : (s.done ag r).remaining = s.remaining := rfl
@[simp] theorem done_dreq (ag : Agent) (r : Reply) : (s.done ag r).dreq = s.dreq := rfl
@[simp] theorem done_dram (ag : Agent) (r : Reply) : (s.done ag r).dram = s.dram := rfl
@[simp] theorem done_palette (ag : Agent) (r : Reply) : (s.done ag r).palette = s.palette := rfl
@[simp] theorem done_fill (ag : Agent) (r : Reply) : (s.done ag r).fill = s.fill := rfl
@[simp] theorem done_fillAddrDirty (ag : Agent) (r : Reply) : (s.done ag r).fillAddrDirty = s.fillAddrDirty := rfl
@[simp] theorem done_vblank (ag : Agent) (r : Reply) : (s.done ag r).vblank = s.vblank := rfl
@[simp] theorem done_hblank (ag : Agent) (r : Reply) : (s.done ag r).hblank = s.hblank := rfl
@[simp] theorem done_pwmFifo (ag : Agent) (r : Reply) : (s.done ag r).pwmFifo = s.pwmFifo := rfl
@[simp] theorem done_pwmOut (ag : Agent) (r : Reply) : (s.done ag r).pwmOut = s.pwmOut := rfl
@[simp] theorem done_divCount (ag : Agent) (r : Reply) : (s.done ag r).divCount = s.divCount := rfl
@[simp] theorem done_periodCount (ag : Agent) (r : Reply) : (s.done ag r).periodCount = s.periodCount := rfl
@[simp] theorem done_bootMapped (ag : Agent) (r : Reply) : (s.done ag r).bootMapped = s.bootMapped := rfl
@[simp] theorem done_cacheEn (ag : Agent) (r : Reply) : (s.done ag r).cacheEn = s.cacheEn := rfl
@[simp] theorem done_cacheRam (ag : Agent) (r : Reply) : (s.done ag r).cacheRam = s.cacheRam := rfl
@[simp] theorem done_sdram (ag : Agent) (r : Reply) : (s.done ag r).sdram = s.sdram := rfl
@[simp] theorem done_log (ag : Agent) (r : Reply) : (s.done ag r).log = s.log := rfl
@[simp] theorem done_fault (ag : Agent) (r : Reply) : (s.done ag r).fault = s.fault := rfl
@[simp] theorem done_refused (ag : Agent) (r : Reply) : (s.done ag r).refused = s.refused := rfl
@[simp] theorem done_script (ag : Agent) (r : Reply) : (s.done ag r).script = dropFirst ag s.script := rfl
@[simp] theorem done_turns (ag : Agent) (r : Reply) : (s.done ag r).turns = s.turns := rfl
@[simp] theorem done_reply (ag : Agent) (r : Reply) : (s.done ag r).reply = some (ag, r) := rfl
@[simp] theorem done_draws (ag : Agent) (r : Reply) : (s.done ag r).draws = s.draws := rfl
@[simp] theorem done_reg (ag : Agent) (r : Reply) (x : Latch) : (s.done ag r).reg x = s.reg x := rfl
@[simp] theorem done_latch (ag : Agent) (r : Reply) (d : CoreId) (x : Source) : (s.done ag r).latch d x = s.latch d x := rfl
@[simp] theorem done_chan (ag : Agent) (r : Reply) (d : CoreId) (h : Channel) : (s.done ag r).chan d h = s.chan d h := rfl

@[simp] theorem republish_cfg : (republish s).cfg = s.cfg := rfl
@[simp] theorem republish_ib : (republish s).ib = s.ib := rfl
@[simp] theorem republish_dma : (republish s).dma = s.dma := rfl
@[simp] theorem republish_regs : (republish s).regs = s.regs := rfl
@[simp] theorem republish_fifo : (republish s).fifo = s.fifo := rfl
@[simp] theorem republish_remaining : (republish s).remaining = s.remaining := rfl
@[simp] theorem republish_dreq : (republish s).dreq = both (!s.fifo.isEmpty) := rfl
@[simp] theorem republish_dram : (republish s).dram = s.dram := rfl
@[simp] theorem republish_palette : (republish s).palette = s.palette := rfl
@[simp] theorem republish_fill : (republish s).fill = s.fill := rfl
@[simp] theorem republish_fillAddrDirty : (republish s).fillAddrDirty = s.fillAddrDirty := rfl
@[simp] theorem republish_vblank : (republish s).vblank = s.vblank := rfl
@[simp] theorem republish_hblank : (republish s).hblank = s.hblank := rfl
@[simp] theorem republish_pwmFifo : (republish s).pwmFifo = s.pwmFifo := rfl
@[simp] theorem republish_pwmOut : (republish s).pwmOut = s.pwmOut := rfl
@[simp] theorem republish_divCount : (republish s).divCount = s.divCount := rfl
@[simp] theorem republish_periodCount : (republish s).periodCount = s.periodCount := rfl
@[simp] theorem republish_bootMapped : (republish s).bootMapped = s.bootMapped := rfl
@[simp] theorem republish_cacheEn : (republish s).cacheEn = s.cacheEn := rfl
@[simp] theorem republish_cacheRam : (republish s).cacheRam = s.cacheRam := rfl
@[simp] theorem republish_sdram : (republish s).sdram = s.sdram := rfl
@[simp] theorem republish_log : (republish s).log = s.log := rfl
@[simp] theorem republish_fault : (republish s).fault = s.fault := rfl
@[simp] theorem republish_refused : (republish s).refused = s.refused := rfl
@[simp] theorem republish_script : (republish s).script = s.script := rfl
@[simp] theorem republish_turns : (republish s).turns = s.turns := rfl
@[simp] theorem republish_reply : (republish s).reply = s.reply := rfl
@[simp] theorem republish_draws : (republish s).draws = s.draws := rfl
@[simp] theorem republish_reg (x : Latch) : (republish s).reg x = s.reg x := rfl
@[simp] theorem republish_latch (d : CoreId) (x : Source) : (republish s).latch d x = s.latch d x := rfl
@[simp] theorem republish_chan (d : CoreId) (h : Channel) : (republish s).chan d h = s.chan d h := rfl

@[simp] theorem setFifo_cfg (q : List Half) : (setFifo q s).cfg = s.cfg := rfl
@[simp] theorem setFifo_ib (q : List Half) : (setFifo q s).ib = s.ib := rfl
@[simp] theorem setFifo_dma (q : List Half) : (setFifo q s).dma = s.dma := rfl
@[simp] theorem setFifo_regs (q : List Half) : (setFifo q s).regs = s.regs := rfl
@[simp] theorem setFifo_fifo (q : List Half) : (setFifo q s).fifo = q := rfl
@[simp] theorem setFifo_remaining (q : List Half) : (setFifo q s).remaining = s.remaining := rfl
@[simp] theorem setFifo_dreq (q : List Half) : (setFifo q s).dreq = both (!q.isEmpty) := rfl
@[simp] theorem setFifo_dram (q : List Half) : (setFifo q s).dram = s.dram := rfl
@[simp] theorem setFifo_palette (q : List Half) : (setFifo q s).palette = s.palette := rfl
@[simp] theorem setFifo_fill (q : List Half) : (setFifo q s).fill = s.fill := rfl
@[simp] theorem setFifo_fillAddrDirty (q : List Half) : (setFifo q s).fillAddrDirty = s.fillAddrDirty := rfl
@[simp] theorem setFifo_vblank (q : List Half) : (setFifo q s).vblank = s.vblank := rfl
@[simp] theorem setFifo_hblank (q : List Half) : (setFifo q s).hblank = s.hblank := rfl
@[simp] theorem setFifo_pwmFifo (q : List Half) : (setFifo q s).pwmFifo = s.pwmFifo := rfl
@[simp] theorem setFifo_pwmOut (q : List Half) : (setFifo q s).pwmOut = s.pwmOut := rfl
@[simp] theorem setFifo_divCount (q : List Half) : (setFifo q s).divCount = s.divCount := rfl
@[simp] theorem setFifo_periodCount (q : List Half) : (setFifo q s).periodCount = s.periodCount := rfl
@[simp] theorem setFifo_bootMapped (q : List Half) : (setFifo q s).bootMapped = s.bootMapped := rfl
@[simp] theorem setFifo_cacheEn (q : List Half) : (setFifo q s).cacheEn = s.cacheEn := rfl
@[simp] theorem setFifo_cacheRam (q : List Half) : (setFifo q s).cacheRam = s.cacheRam := rfl
@[simp] theorem setFifo_sdram (q : List Half) : (setFifo q s).sdram = s.sdram := rfl
@[simp] theorem setFifo_log (q : List Half) : (setFifo q s).log = s.log := rfl
@[simp] theorem setFifo_fault (q : List Half) : (setFifo q s).fault = s.fault := rfl
@[simp] theorem setFifo_refused (q : List Half) : (setFifo q s).refused = s.refused := rfl
@[simp] theorem setFifo_script (q : List Half) : (setFifo q s).script = s.script := rfl
@[simp] theorem setFifo_turns (q : List Half) : (setFifo q s).turns = s.turns := rfl
@[simp] theorem setFifo_reply (q : List Half) : (setFifo q s).reply = s.reply := rfl
@[simp] theorem setFifo_draws (q : List Half) : (setFifo q s).draws = s.draws := rfl
@[simp] theorem setFifo_reg (q : List Half) (x : Latch) : (setFifo q s).reg x = s.reg x := rfl
@[simp] theorem setFifo_latch (q : List Half) (d : CoreId) (x : Source) : (setFifo q s).latch d x = s.latch d x := rfl
@[simp] theorem setFifo_chan (q : List Half) (d : CoreId) (h : Channel) : (setFifo q s).chan d h = s.chan d h := rfl

end Sys2Proof.Machine
end

