-- ==== Sys2Proof/Laws/Words.lean ====
section
/-! SUPPORT. The laws of the plain data: pairs kept per core, channel, side and bank; cells of a memory
and its canonical form; bits of a half-word; latches, latch pairs and channels of the state. -/

namespace Sys2Proof

@[simp] theorem CoreId.other_ne (c : CoreId) : c.other ≠ c := by cases c <;> decide

@[simp] theorem Bank.other_ne (b : Bank) : b.other ≠ b := by cases b <;> decide

theorem PerCore.get_set {α : Type} (p : PerCore α) (c d : CoreId) (v : α) :
    (p.set c v).get d = if d = c then v else p.get d := by
  cases c <;> cases d <;> rfl

@[simp] theorem PerCore.get_set_same {α : Type} (p : PerCore α) (c : CoreId) (v : α) :
    (p.set c v).get c = v := by
  cases c <;> rfl

theorem PerChannel.get_set {α : Type} (p : PerChannel α) (c d : Channel) (v : α) :
    (p.set c v).get d = if d = c then v else p.get d := by
  cases c <;> cases d <;> rfl

theorem PerSide.get_set {α : Type} (p : PerSide α) (c d : Side) (v : α) :
    (p.set c v).get d = if d = c then v else p.get d := by
  cases c <;> cases d <;> rfl

theorem PerBank.get_set {α : Type} (p : PerBank α) (c d : Bank) (v : α) :
    (p.set c v).get d = if d = c then v else p.get d := by
  cases c <;> cases d <;> rfl

namespace Machine

@[simp] theorem both_get {α : Type} (v : α) (c : CoreId) : (both v).get c = v := by cases c <;> rfl

/-! ## Cells of a memory -/

variable {w : Nat}

theorem Mem.get_erase (m : Mem w) (a x : Nat) :
    Mem.get (Mem.erase m a) x = if x = a then 0#w else Mem.get m x := by
  induction m with
  | nil => simp [Mem.erase, Mem.get]
  | cons p t ih =>
    obtain ⟨b, v⟩ := p
    by_cases hb : b = a
    · by_cases hx : x = a
      · simp [Mem.erase, hb, hx] at ih ⊢; exact ih
      · have : a ≠ x := fun h => hx h.symm
        simp [Mem.erase, Mem.get, hb, hx, ih, this]
    · by_cases hx : x = a
      · simp [Mem.erase, Mem.get, hb, hx] at ih ⊢; exact ih
      · simp [Mem.erase, Mem.get, hb, hx, ih]

theorem Mem.get_insert (m : Mem w) (a x : Nat) (v : BitVec w) :
    Mem.get (Mem.insert m a v) x = if x = a then v else Mem.get m x := by
  induction m with
  | nil =>
    by_cases hx : x = a
    · simp [Mem.insert, Mem.get, hx]
    · have : a ≠ x := fun h => hx h.symm
      simp [Mem.insert, Mem.get, hx, this]
  | cons p t ih =>
    obtain ⟨b, y⟩ := p
    unfold Mem.insert
    split
    · by_cases hx : x = a
      · simp [Mem.get, hx]
      · have : a ≠ x := fun h => hx h.symm
        simp [Mem.get, hx, this]
    · split
      · rename_i hab
        subst hab
        by_cases hx : x = a
        · simp [Mem.get, hx]
        · have : a ≠ x := fun h => hx h.symm
          simp [Mem.get, hx, this]
      · rename_i hab
        by_cases hx : x = a
        · subst hx
          have : b ≠ x := fun h => hab h.symm
          simp [Mem.get, this] at ih ⊢; exact ih
        · simp [Mem.get, ih, hx]

/-- A read after a write gives the value written at its address, and what was there before elsewhere. -/
theorem Mem.get_set (m : Mem w) (a x : Nat) (v : BitVec w) :
    Mem.get (Mem.set m a v) x = if x = a then v else Mem.get m x := by
  unfold Mem.set
  split
  · rename_i h; subst h; exact Mem.get_erase m a x
  · exact Mem.get_insert m a x v

theorem Mem.wfFrom_mono {lo lo' : Nat} (h : lo' ≤ lo) (m : Mem w) (hm : Mem.wfFrom lo m = true) :
    Mem.wfFrom lo' m = true := by
  cases m with
  | nil => rfl
  | cons p t =>
    simp only [Mem.wfFrom, Bool.and_eq_true, Nat.ble_eq] at hm ⊢
    exact ⟨⟨le_trans h hm.1.1, hm.1.2⟩, hm.2⟩

theorem Mem.wfFrom_erase (m : Mem w) (a : Nat) :
    ∀ lo, Mem.wfFrom lo m = true → Mem.wfFrom lo (Mem.erase m a) = true := by
  induction m with
  | nil => intro lo _; rfl
  | cons p t ih =>
    obtain ⟨b, y⟩ := p
    intro lo h
    simp only [Mem.wfFrom, Bool.and_eq_true, Nat.ble_eq] at h
    unfold Mem.erase
    split
    · exact ih lo (Mem.wfFrom_mono (by omega) t h.2)
    · simp only [Mem.wfFrom, Bool.and_eq_true, Nat.ble_eq]
      exact ⟨h.1, ih _ h.2⟩

theorem Mem.wfFrom_insert (m : Mem w) (a : Nat) (v : BitVec w) (hv : v ≠ 0#w) :
    ∀ lo, lo ≤ a → Mem.wfFrom lo m = true → Mem.wfFrom lo (Mem.insert m a v) = true := by
  induction m with
  | nil => intro lo hl _; simp [Mem.insert, Mem.wfFrom, hl, hv]
  | cons p t ih =>
    obtain ⟨b, y⟩ := p
    intro lo hl h
    simp only [Mem.wfFrom, Bool.and_eq_true, Nat.ble_eq, bne_iff_ne] at h
    unfold Mem.insert
    split
    · simp only [Mem.wfFrom, Bool.and_eq_true, Nat.ble_eq, bne_iff_ne]
      exact ⟨⟨hl, hv⟩, ⟨by omega, h.1.2⟩, h.2⟩
    · split
      · rename_i hab
        subst hab
        simp only [Mem.wfFrom, Bool.and_eq_true, Nat.ble_eq, bne_iff_ne]
        exact ⟨⟨hl, hv⟩, h.2⟩
      · simp only [Mem.wfFrom, Bool.and_eq_true, Nat.ble_eq, bne_iff_ne]
        exact ⟨h.1, ih _ (by omega) h.2⟩

/-- A write keeps the canonical form. -/
theorem Mem.wf_set (m : Mem w) (a : Nat) (v : BitVec w) (h : Mem.wf m = true) :
    Mem.wf (Mem.set m a v) = true := by
  unfold Mem.set
  split
  · exact Mem.wfFrom_erase m a 0 h
  · rename_i hv; exact Mem.wfFrom_insert m a v hv 0 (Nat.zero_le a) h

/-- Equal readings of canonical memories are equal memories. -/
theorem Mem.get_of_wfFrom_lt (m : Mem w) : ∀ lo a, Mem.wfFrom lo m = true → a < lo → Mem.get m a = 0#w := by
  induction m with
  | nil => intro lo a _ _; rfl
  | cons p t ih =>
    obtain ⟨b, y⟩ := p
    intro lo a h hlt
    simp only [Mem.wfFrom, Bool.and_eq_true, Nat.ble_eq, bne_iff_ne] at h
    have : b ≠ a := by omega
    simp only [Mem.get, this, if_false]
    exact ih (b + 1) a h.2 (by omega)

/-- Canonical memories that read the same are the same list. -/
theorem Mem.eq_of_get_eq (m : Mem w) : ∀ (n : Mem w) (lo : Nat), Mem.wfFrom lo m = true →
    Mem.wfFrom lo n = true → (∀ a, Mem.get m a = Mem.get n a) → m = n := by
  induction m with
  | nil =>
    intro n lo _ hn h
    cases n with
    | nil => rfl
    | cons q t =>
      obtain ⟨b, y⟩ := q
      simp only [Mem.wfFrom, Bool.and_eq_true, Nat.ble_eq, bne_iff_ne] at hn
      have := h b
      simp [Mem.get] at this
      exact absurd this.symm hn.1.2
  | cons p t ih =>
    obtain ⟨a, x⟩ := p
    intro n lo hm hn h
    simp only [Mem.wfFrom, Bool.and_eq_true, Nat.ble_eq, bne_iff_ne] at hm
    cases n with
    | nil =>
      have := h a
      simp [Mem.get] at this
      exact absurd this hm.1.2
    | cons q u =>
      obtain ⟨b, y⟩ := q
      simp only [Mem.wfFrom, Bool.and_eq_true, Nat.ble_eq, bne_iff_ne] at hn
      have hab : a = b := by
        rcases Nat.lt_trichotomy a b with hlt | heq | hgt
        · have h1 := h a
          have h2 : Mem.get ((b, y) :: u) a = 0#w := by
            have : b ≠ a := by omega
            simp only [Mem.get, this, if_false]
            exact Mem.get_of_wfFrom_lt u (b + 1) a hn.2 (by omega)
          rw [h2] at h1
          simp [Mem.get] at h1
          exact absurd h1 hm.1.2
        · exact heq
        · have h1 := h b
          have h2 : Mem.get ((a, x) :: t) b = 0#w := by
            have : a ≠ b := by omega
            simp only [Mem.get, this, if_false]
            exact Mem.get_of_wfFrom_lt t (a + 1) b hm.2 (by omega)
          rw [h2] at h1
          simp [Mem.get] at h1
          exact absurd h1.symm hn.1.2
      subst hab
      have hxy : x = y := by simpa [Mem.get] using h a
      subst hxy
      congr 1
      apply ih u (a + 1) hm.2 hn.2
      intro c
      by_cases hc : a = c
      · subst hc
        rw [Mem.get_of_wfFrom_lt t (a + 1) a hm.2 (by omega),
          Mem.get_of_wfFrom_lt u (a + 1) a hn.2 (by omega)]
      · simpa [Mem.get, hc] using h c

theorem Mem.below_erase (n : Nat) (m : Mem w) (a : Nat) (h : Mem.below n m = true) :
    Mem.below n (Mem.erase m a) = true := by
  induction m with
  | nil => rfl
  | cons p t ih =>
    obtain ⟨b, y⟩ := p
    simp only [Mem.below, List.all_cons, Bool.and_eq_true] at h ih ⊢
    unfold Mem.erase
    split
    · exact ih h.2
    · simp only [List.all_cons, Bool.and_eq_true]; exact ⟨h.1, ih h.2⟩

theorem Mem.below_insert (n : Nat) (m : Mem w) (a : Nat) (v : BitVec w) (ha : a < n)
    (h : Mem.below n m = true) : Mem.below n (Mem.insert m a v) = true := by
  induction m with
  | nil => simp [Mem.insert, Mem.below, Nat.blt_eq, ha]
  | cons p t ih =>
    obtain ⟨b, y⟩ := p
    simp only [Mem.below, List.all_cons, Bool.and_eq_true, Nat.blt_eq] at h ih ⊢
    unfold Mem.insert
    split
    · simp only [List.all_cons, Bool.and_eq_true, Nat.blt_eq]; exact ⟨ha, h⟩
    · split
      · simp only [List.all_cons, Bool.and_eq_true, Nat.blt_eq]; exact ⟨ha, h.2⟩
      · simp only [List.all_cons, Bool.and_eq_true, Nat.blt_eq]; exact ⟨h.1, ih h.2⟩

/-- A write inside an array lists no address outside it. -/
theorem Mem.below_set (n : Nat) (m : Mem w) (a : Nat) (v : BitVec w) (ha : a < n)
    (h : Mem.below n m = true) : Mem.below n (Mem.set m a v) = true := by
  unfold Mem.set
  split
  · exact Mem.below_erase n m a h
  · exact Mem.below_insert n m a v ha h

theorem Mem.ofCells_sound (n : Nat) (cells : Mem w) :
    Mem.wf (Mem.ofCells n cells) = true ∧ Mem.below n (Mem.ofCells n cells) = true := by
  have key : ∀ (l m : Mem w), Mem.wf m = true ∧ Mem.below n m = true →
      Mem.wf (l.foldl (fun m p => if p.1 < n then Mem.set m p.1 p.2 else m) m) = true
      ∧ Mem.below n (l.foldl (fun m p => if p.1 < n then Mem.set m p.1 p.2 else m) m) = true := by
    intro l
    induction l with
    | nil => intro m h; exact h
    | cons p t ih =>
      intro m h
      simp only [List.foldl_cons]
      apply ih
      split
      · rename_i hp; exact ⟨Mem.wf_set _ _ _ h.1, Mem.below_set _ _ _ _ hp h.2⟩
      · exact h
  exact key cells [] ⟨rfl, rfl⟩

/-- Bytes outside the written half-word read as before; inside, the selected lanes read as written. -/
theorem memWrite_get (m : Memory) (a x : Nat) (ln : Lanes) (v : Half) :
    Mem.get (memWrite m a ln v) x =
      if x = a ∧ ln.u then upperByte v
      else if x = a + 1 ∧ ln.l then lowerByte v
      else Mem.get m x := by
  obtain ⟨u, l⟩ := ln
  cases u <;> cases l <;> simp [memWrite, Mem.get_set]
  split_ifs with h1 h2 <;> first | rfl | omega

theorem memWrite_wf (m : Memory) (a : Nat) (ln : Lanes) (v : Half) (h : Mem.wf m = true) :
    Mem.wf (memWrite m a ln v) = true := by
  obtain ⟨u, l⟩ := ln
  cases u <;> cases l <;> simp [memWrite, Mem.wf_set, h]

theorem memWrite_below (n : Nat) (m : Memory) (a : Nat) (ln : Lanes) (v : Half) (ha : a + 1 < n)
    (h : Mem.below n m = true) : Mem.below n (memWrite m a ln v) = true := by
  obtain ⟨u, l⟩ := ln
  have h0 : a < n := by omega
  cases u <;> cases l <;> simp only [memWrite] <;>
    first
    | exact h
    | exact Mem.below_set _ _ _ _ ha (Mem.below_set _ _ _ _ h0 h)
    | exact Mem.below_set _ _ _ _ ha h
    | exact Mem.below_set _ _ _ _ h0 h

theorem fillRun_wf (v : Half) (n : Nat) : ∀ (m : Memory) (a : Nat), Mem.wf m = true →
    Mem.wf (fillRun m a v n) = true := by
  induction n with
  | zero => intro m a h; exact h
  | succ n ih => intro m a h; exact ih _ _ (memWrite_wf m a Lanes.full v h)

theorem fillRun_below (b : Nat) (v : Half) (n : Nat) : ∀ (m : Memory) (a : Nat), a + 2 * n ≤ b →
    Mem.below b m = true → Mem.below b (fillRun m a v n) = true := by
  induction n with
  | zero => intro m a _ h; exact h
  | succ n ih =>
    intro m a hb h
    exact ih _ _ (by omega) (memWrite_below b m a Lanes.full v (by omega) h)

/-- What a run of `n` half-words leaves at each address (43_framebuffer_arbiter R282). -/
theorem fillRun_get (v : Half) : ∀ (n : Nat) (m : Memory) (a x : Nat), a % 2 = 0 →
    Mem.get (fillRun m a v n) x =
      if a ≤ x ∧ x < a + 2 * n then (if x % 2 = 0 then upperByte v else lowerByte v) else Mem.get m x := by
  intro n
  induction n with
  | zero => intro m a x h; rw [fillRun, if_neg (by omega)]
  | succ n ih =>
    intro m a x h
    rw [fillRun, ih _ _ _ (by omega), memWrite_get]
    simp only [Lanes.full]
    split <;> split <;> (try split) <;> (try split) <;> first | rfl | omega | simp_all; omega

/-! ## Bits -/

theorem putBit_getLsbD (v : Half) (p q : Nat) (b : Bool) (hq : q < 16) :
    (putBit v p b).getLsbD q = if q = p then b else v.getLsbD q := by
  unfold putBit
  have hbit : (1#16 <<< p).getLsbD q = decide (q = p) := by
    by_cases h : q = p
    · subst h; simp [hq]
    · by_cases hlt : q < p
      · simp [BitVec.getLsbD_shiftLeft, hlt, h]
      · have : q - p ≠ 0 := by omega
        simp [BitVec.getLsbD_shiftLeft, BitVec.getLsbD_one, this, h]
  cases b
  · simp only [Bool.false_eq_true, if_false, BitVec.getLsbD_and, BitVec.getLsbD_not, hbit, hq]
    by_cases h : q = p <;> simp [h]
  · simp only [if_true, BitVec.getLsbD_or, hbit]
    by_cases h : q = p <;> simp [h]

/-- The covered lane of a merge is the new value's, the other the old one's. -/
theorem merge16_getLsbD (old new : Half) (ln : Lanes) (p : Nat) (hp : p < 16) :
    (merge16 old new ln).getLsbD p = if ln.covers p then new.getLsbD p else old.getLsbD p := by
  unfold merge16 Lanes.covers upperByte lowerByte
  rw [BitVec.getLsbD_append]
  by_cases h : 8 ≤ p
  · have h' : ¬ p < 8 := by omega
    have h8 : p - 8 < 8 := by omega
    have he : 8 + (p - 8) = p := by omega
    cases ln.u <;> simp [h, h', h8, he]
  · have h' : p < 8 := by omega
    cases ln.l <;> simp [h, h']

@[simp] theorem merge16_full (old new : Half) : merge16 old new Lanes.full = new := by
  apply BitVec.eq_of_getLsbD_eq
  intro i hi
  rw [merge16_getLsbD _ _ _ _ hi]
  simp [Lanes.covers, Lanes.full]

theorem truncTo_lt (n : Nat) (v : Half) : (truncTo n v).toNat < 2 ^ n := by
  unfold truncTo
  rw [BitVec.toNat_ofNat]
  exact lt_of_le_of_lt (Nat.mod_le _ _) (Nat.mod_lt _ (Nat.two_pow_pos n))

/-! ## Latches, latch pairs, channels -/

theorem Latch.index_injective (a b : Latch) (h : Latch.index a = Latch.index b) : a = b := by
  cases a <;> cases b <;>
    simp only [Latch.index, Fin.ext_iff, reduceCtorEq, Latch.comm.injEq] at h ⊢ <;>
    first
    | (exfalso; revert h; decide)
    | omega

@[simp] theorem setReg_reg (s : State) (l r : Latch) (v : Half) :
    (s.setReg l v).reg r = if r = l then v else s.reg r := by
  unfold State.setReg State.reg
  simp only
  by_cases h : r = l
  · subst h; simp
  · have : (Latch.index l).val ≠ (Latch.index r).val := fun e =>
      h (Latch.index_injective r l (Fin.ext e.symm))
    simp [h, this]

theorem Maskable.get_set (k : Maskable) (a b : Source) (p : LatchPair) :
    (k.set a p).get b = if b = a ∧ b ≠ .vres then p else k.get b := by
  cases a <;> cases b <;> rfl

/-- The pair written, but on the Master's VRES, which has none (10_state R32). -/
theorem IntRouter.get_set (r : IntRouter) (c d : CoreId) (a b : Source) (p : LatchPair) :
    (r.set c a p).get d b = if d = c ∧ b = a ∧ ¬ (c = .m ∧ a = .vres) then p else r.get d b := by
  cases c <;> cases d <;> cases a <;> cases b <;> rfl

@[simp] theorem IntRouter.get_master_vres (r : IntRouter) : r.get .m .vres = LatchPair.clear := rfl

theorem setActive_latch (s : State) (c d : CoreId) (a b : Source) (v : Bool) :
    (s.setActive c a v).latch d b =
      if d = c ∧ b = a ∧ ¬ (c = .m ∧ a = .vres) then { s.latch c a with active := v } else s.latch d b :=
  IntRouter.get_set _ _ _ _ _ _

theorem setEnableBit_latch (s : State) (c d : CoreId) (a b : Source) (v : Bool) :
    (s.setEnableBit c a v).latch d b =
      if d = c ∧ b = a ∧ ¬ (c = .m ∧ a = .vres) then { s.latch c a with enable := v } else s.latch d b :=
  IntRouter.get_set _ _ _ _ _ _

theorem setChan_chan (s : State) (c d : CoreId) (a b : Channel) (k : DmaChannel) :
    (s.setChan c a k).chan d b = if d = c ∧ b = a then k else s.chan d b := by
  cases c <;> cases d <;> cases a <;> cases b <;> rfl

end Machine

end Sys2Proof
end

