-- ==== Sys2Proof/Laws/Ops.lean ====
section
/-! SUPPORT. What each shared operation can do, said once: the outcomes of a transaction, the router's
operations and the priority encoder, address decoding, the effects of a bus read and a bus write, the
drain, and from these the inversion of `exec`. Provers cite these lemmas and need not unfold the
operations. -/

namespace Sys2Proof.Machine

/-! ## Outcomes -/

variable {s t u : State}

@[simp] theorem finish_done (ag : Agent) (s u : State) (r : Reply) :
    finish ag s (.done (r, u)) = .next (u.done ag r) := rfl
@[simp] theorem finish_held (ag : Agent) (s : State) (h : Hold) :
    finish ag s (.held h) = .next { s with reply := some (ag, .held h) } := rfl
@[simp] theorem finish_fault (ag : Agent) (s : State) (e : Fault) : finish ag s (.fault e) = .fault e := rfl
@[simp] theorem finish_refused (ag : Agent) (s : State) (e : Refusal) :
    finish ag s (.refused e) = .refused e := rfl

/-- A transaction that answers a next state has completed or holds. -/
theorem finish_next {ag : Agent} {r : Result (Reply × State)} (h : finish ag s r = .next t) :
    (∃ a u, r = .done (a, u) ∧ t = u.done ag a)
    ∨ ∃ hd, r = .held hd ∧ t = { s with reply := some (ag, .held hd) } := by
  cases r with
  | done x => simp only [finish, Host.Outcome.next.injEq] at h; exact .inl ⟨x.1, x.2, rfl, h.symm⟩
  | held hd => simp only [finish, Host.Outcome.next.injEq] at h; exact .inr ⟨hd, rfl, h.symm⟩
  | fault e => simp at h
  | refused e => simp at h

@[simp] theorem coreTxn_free (op : BitVec 8) (c : CoreId) (s : State) (k : CoreId → Result (Reply × State))
    (h : s.fill.get c = none) : coreTxn op (.core c) s k = finish (.core c) s (k c) := by
  simp [coreTxn, h]
theorem coreTxn_busy (op : BitVec 8) (c : CoreId) (s : State) (k : CoreId → Result (Reply × State))
    (f : Fill) (h : s.fill.get c = some f) :
    coreTxn op (.core c) s k = .next { s with reply := some (.core c, .held (.fillBusy c)) } := by
  simp [coreTxn, h]
@[simp] theorem fillTxn_core (op : BitVec 8) (c : CoreId) (s : State)
    (k : CoreId → Result (Reply × State)) : fillTxn op (.core c) s k = finish (.core c) s (k c) := rfl
@[simp] theorem hostTxn_host (op : BitVec 8) (s : State) (k : Result (Reply × State)) :
    hostTxn op .host s k = finish .host s k := rfl
@[simp] theorem envTxn_env (op : BitVec 8) (s : State) (k : Result (Reply × State)) :
    envTxn op .env s k = finish .env s k := rfl

@[simp] theorem Result.map_done {α β : Type} (f : α → β) (a : α) : (Result.done a).map f = .done (f a) := rfl
@[simp] theorem Result.map_held {α β : Type} (f : α → β) (h : Hold) :
    (Result.held h : Result α).map f = .held h := rfl
@[simp] theorem Result.map_fault {α β : Type} (f : α → β) (e : Fault) :
    (Result.fault e : Result α).map f = .fault e := rfl
@[simp] theorem Result.map_refused {α β : Type} (f : α → β) (e : Refusal) :
    (Result.refused e : Result α).map f = .refused e := rfl
@[simp] theorem Result.bind_done {α β : Type} (f : α → Result β) (a : α) : (Result.done a).bind f = f a := rfl
@[simp] theorem Result.bind_held {α β : Type} (f : α → Result β) (h : Hold) :
    (Result.held h : Result α).bind f = .held h := rfl
@[simp] theorem Result.bind_fault {α β : Type} (f : α → Result β) (e : Fault) :
    (Result.fault e : Result α).bind f = .fault e := rfl
@[simp] theorem Result.bind_refused {α β : Type} (f : α → Result β) (e : Refusal) :
    (Result.refused e : Result α).bind f = .refused e := rfl

theorem Result.map_eq_done {α β : Type} {f : α → β} {r : Result α} {b : β} (h : r.map f = .done b) :
    ∃ a, r = .done a ∧ f a = b := by
  cases r <;> simp_all [Result.map]

theorem Result.bind_eq_done {α β : Type} {f : α → Result β} {r : Result α} {b : β}
    (h : r.bind f = .done b) : ∃ a, r = .done a ∧ f a = .done b := by
  cases r <;> simp_all [Result.bind]

/-- A bus call that passes the alignment and lane checks. -/
theorem checkedCall_ok {α : Type} (ln : Lanes) (a : Addr) (r : Result α)
    (ha : a.getLsbD 0 = false) (hl : (ln.u || ln.l) = true) : checkedCall ln a r = r := by
  unfold checkedCall
  rw [ha, hl]
  simp

theorem checkedCall_done {α : Type} {ln : Lanes} {a : Addr} {r : Result α} {x : α}
    (h : checkedCall ln a r = .done x) : a.getLsbD 0 = false ∧ (ln.u || ln.l) = true ∧ r = .done x := by
  unfold checkedCall at h
  split at h
  · simp at h
  · split at h
    · simp_all
    · simp at h

/-- A completed read call (41_bus_decoder R200, R202). -/
theorem readTxn_done (p : Port) (u l : Bool) (a : Addr) (prior v : Half) (s t : State)
    (hf : s.unheld p) (ha : callOk u l a)
    (h : busRead p { u := u, l := l } a prior s = .done (v, t)) :
    exec (p.readTxn u l a prior) s = .next (t.done p.agent (.value v)) := by
  cases p with
  | ext => simp [Port.readTxn, exec, execRdx, readCall, checkedCall_ok { u := u, l := l } a _ ha.1 ha.2, h, Port.agent]
  | int c =>
    simp only [State.unheld] at hf
    simp [Port.readTxn, exec, execRdi, readCall, checkedCall_ok { u := u, l := l } a _ ha.1 ha.2, h, Port.agent, hf]

/-- A read call whose read faults. -/
theorem readTxn_fault (p : Port) (u l : Bool) (a : Addr) (prior : Half) (s : State) (e : Fault)
    (hf : s.unheld p) (ha : callOk u l a)
    (h : busRead p { u := u, l := l } a prior s = .fault e) :
    exec (p.readTxn u l a prior) s = .fault e := by
  cases p with
  | ext => simp [Port.readTxn, exec, execRdx, readCall, checkedCall_ok { u := u, l := l } a _ ha.1 ha.2, h]
  | int c =>
    simp only [State.unheld] at hf
    simp [Port.readTxn, exec, execRdi, readCall, checkedCall_ok { u := u, l := l } a _ ha.1 ha.2, h, hf]

/-- A completed write call (41_bus_decoder R201, R203). -/
theorem writeTxn_done (p : Port) (u l : Bool) (a : Addr) (v : Half) (s t : State)
    (hf : s.unheld p) (ha : callOk u l a)
    (h : busWrite p { u := u, l := l } a v s = .done t) :
    exec (p.writeTxn u l a v) s = .next (t.done p.agent .done) := by
  cases p with
  | ext => simp [Port.writeTxn, exec, execWrx, writeCall, checkedCall_ok { u := u, l := l } a _ ha.1 ha.2, h, Port.agent]
  | int c =>
    simp only [State.unheld] at hf
    simp [Port.writeTxn, exec, execWri, writeCall, checkedCall_ok { u := u, l := l } a _ ha.1 ha.2, h, Port.agent, hf]

/-- A write call whose write faults. -/
theorem writeTxn_fault (p : Port) (u l : Bool) (a : Addr) (v : Half) (s : State) (e : Fault)
    (hf : s.unheld p) (ha : callOk u l a)
    (h : busWrite p { u := u, l := l } a v s = .fault e) :
    exec (p.writeTxn u l a v) s = .fault e := by
  cases p with
  | ext => simp [Port.writeTxn, exec, execWrx, writeCall, checkedCall_ok { u := u, l := l } a _ ha.1 ha.2, h]
  | int c =>
    simp only [State.unheld] at hf
    simp [Port.writeTxn, exec, execWri, writeCall, checkedCall_ok { u := u, l := l } a _ ha.1 ha.2, h, hf]

/-- A write call of a core whose write holds. -/
theorem writeTxn_held (c : CoreId) (u l : Bool) (a : Addr) (v : Half) (s : State) (hd : Hold)
    (hf : s.fill.get c = none) (ha : callOk u l a)
    (h : busWrite (.int c) { u := u, l := l } a v s = .held hd) :
    Holds (.wri (.core c) u l a v) s hd := by
  simp [Holds, exec, execWri, writeCall, checkedCall_ok { u := u, l := l } a _ ha.1 ha.2, h, hf, Instr.agent]

/-- The step of an unmarked state with a well-formed configuration and a transaction left. -/
theorem step_run (s : State) (hm : s.unmarked) (hc : s.cfg.problem = none) (hs : s.script ≠ []) :
    step s = runAgent (takeTurn s).1 (takeTurn s).2 := by
  obtain ⟨h1, h2⟩ := hm
  unfold step State.stopped
  simp only [h1, h2, hc]
  cases hsc : s.script with
  | nil => exact absurd hsc hs
  | cons w ws => rfl

/-! ## Interrupt router -/

theorem raiseSource_latch (src : Source) (s : State) (c : CoreId) (x : Source) :
    (raiseSource src s).latch c x =
      if x = src ∧ ¬ (c = .m ∧ src = .vres) then { s.latch c x with active := true } else s.latch c x := by
  cases src <;> cases c <;> cases x <;> rfl

theorem raiseSource_eq (src : Source) (s : State) :
    raiseSource src s = { s with ib := (raiseSource src s).ib } := by cases src <;> rfl

theorem acknowledge_latch (c : CoreId) (src : Source) (s : State) (d : CoreId) (x : Source) :
    (acknowledge c src s).latch d x =
      if d = c ∧ x = src then { s.latch d x with active := false } else s.latch d x := by
  cases src <;> cases c <;> cases d <;> cases x <;> rfl

theorem setEnable_latch (c : CoreId) (src : Source) (b : Bool) (s : State) (d : CoreId) (x : Source) :
    (setEnable c src b s).latch d x =
      if d = c ∧ x = src ∧ ¬ (c = .m ∧ src = .vres) then { s.latch d x with enable := b }
      else s.latch d x := by
  cases src <;> cases c <;> cases d <;> cases x <;> rfl

/-- `INT_MASK` writes: each enable with a covered position takes its bit (40_interrupt_router R179). -/
theorem maskEnable_eq (c : CoreId) (ln : Lanes) (v : Half) (s : State) (src : Source) :
    maskEnable c ln v s src = { s with ib := (maskEnable c ln v s src).ib } := by
  unfold maskEnable
  split
  · rfl
  · split <;> rfl

theorem maskEnable_latch (c : CoreId) (ln : Lanes) (v : Half) (s : State) (src : Source) (d : CoreId)
    (x : Source) :
    (maskEnable c ln v s src).latch d x =
      match enablePos s.cfg.fields src with
      | none => s.latch d x
      | some q =>
        if d = c ∧ x = src ∧ ¬ (c = .m ∧ src = .vres) ∧ ln.covers q = true then
          { s.latch d x with enable := v.getLsbD q }
        else s.latch d x := by
  unfold maskEnable
  cases enablePos s.cfg.fields src with
  | none => rfl
  | some q =>
    simp only
    by_cases hq : ln.covers q = true
    · rw [if_pos hq, setEnable_latch]; simp [hq]
    · simp [hq]

@[simp] theorem maskEnable_cfg (c : CoreId) (ln : Lanes) (v : Half) (s : State) (src : Source) :
    (maskEnable c ln v s src).cfg = s.cfg := by rw [maskEnable_eq]

theorem writeIntMask_eq (c : CoreId) (ln : Lanes) (v : Half) (s : State) :
    writeIntMask c ln v s = { s with ib := (writeIntMask c ln v s).ib } := by
  have key : ∀ (l : List Source) (s : State), ∃ r, l.foldl (maskEnable c ln v) s = { s with ib := r } := by
    intro l
    induction l with
    | nil => exact fun s => ⟨s.ib, rfl⟩
    | cons x l ih =>
      intro s
      obtain ⟨r, hr⟩ := ih (maskEnable c ln v s x)
      refine ⟨r, ?_⟩
      rw [List.foldl_cons, hr, maskEnable_eq]
  obtain ⟨r, hr⟩ := key allSources s
  unfold writeIntMask
  rw [hr]

theorem writeIntMask_latch (c : CoreId) (ln : Lanes) (v : Half) (s : State) (d : CoreId) (x : Source) :
    (writeIntMask c ln v s).latch d x =
      match enablePos s.cfg.fields x with
      | some q =>
        if d = c ∧ ln.covers q = true ∧ ¬ (c = .m ∧ x = .vres) then
          { s.latch d x with enable := v.getLsbD q }
        else s.latch d x
      | none => s.latch d x := by
  simp only [writeIntMask, allSources, List.foldl, maskEnable_latch, maskEnable_cfg]
  cases hv : enablePos s.cfg.fields .vres <;> cases x <;> simp [enablePos] <;>
    simp only [enablePos] at hv <;> grind

/-! ## Priority encoder -/

/-- The source a priority encoder over `l` picks is pending, above the mask, and no earlier one is. -/
theorem firstEligible_some {c : CoreId} {m : BitVec 4} {s : State} {src : Source} :
    ∀ {l : List Source}, firstEligible c m s l = some src →
      src ∈ l ∧ s.pending c src = true ∧ m.toNat < levelOf src := by
  intro l
  induction l with
  | nil => simp [firstEligible]
  | cons x l ih =>
    unfold firstEligible
    split
    · rename_i h
      intro e
      cases e
      simp only [Bool.and_eq_true, Nat.blt_eq] at h
      exact ⟨by simp, h.1, h.2⟩
    · intro e
      obtain ⟨h1, h2⟩ := ih e
      exact ⟨by simp [h1], h2⟩

theorem firstEligible_none {c : CoreId} {m : BitVec 4} {s : State} :
    ∀ {l : List Source}, firstEligible c m s l = none ↔
      ∀ x ∈ l, s.pending c x = true → levelOf x ≤ m.toNat := by
  intro l
  induction l with
  | nil => simp [firstEligible]
  | cons x l ih =>
    unfold firstEligible
    by_cases hx : (s.pending c x && Nat.blt m.toNat (levelOf x)) = true
    · rw [if_pos hx]
      simp only [Bool.and_eq_true, Nat.blt_eq] at hx
      simp only [reduceCtorEq, List.mem_cons, forall_eq_or_imp, false_iff, not_and]
      intro h
      exact absurd (h hx.1) (by omega)
    · rw [if_neg hx, ih]
      simp only [Bool.and_eq_true, Nat.blt_eq, not_and, not_lt] at hx
      simp only [List.mem_cons, forall_eq_or_imp]
      exact ⟨fun h => ⟨hx, h⟩, fun h => h.2⟩

/-- A poll delivers no interrupt exactly when the state is quiet (40_interrupt_router R168). -/
theorem pollChoice_none (c : CoreId) (m : BitVec 4) (s : State) :
    pollChoice c m s = none ↔ s.quiet c m := by
  unfold pollChoice State.quiet
  by_cases hv : c = .s ∧ s.pending .s .vres = true
  · simp [hv]
  · rw [if_neg hv, firstEligible_none]
    constructor
    · intro h
      refine ⟨hv, fun x hx hp => h x ?_ hp⟩
      cases x <;> simp_all
    · intro h x hx hp
      exact h.2 x (by rintro rfl; simp at hx) hp

/-- The delivered source is pending, and above the mask unless it is VRES. -/
theorem pollChoice_some {c : CoreId} {m : BitVec 4} {s : State} {src : Source}
    (h : pollChoice c m s = some src) :
    s.pending c src = true ∧ ((src = .vres ∧ c = .s) ∨ (src ≠ .vres ∧ m.toNat < levelOf src)) := by
  unfold pollChoice at h
  split at h
  · rename_i hv
    cases h
    obtain ⟨rfl, hp⟩ := hv
    exact ⟨hp, .inl ⟨rfl, rfl⟩⟩
  · obtain ⟨h1, h2, h3⟩ := firstEligible_some h
    exact ⟨h2, .inr ⟨by rintro rfl; simp at h1, h3⟩⟩

/-- With no VRES to deliver, the choice is the pending source of the highest level, if that exceeds the
mask (40_interrupt_router R171). -/
theorem pollChoice_highest (c : CoreId) (m : BitVec 4) (s : State) (src : Source)
    (hv : ¬ (c = .s ∧ s.pending .s .vres = true)) (hx : src ≠ .vres) (hp : s.pending c src = true)
    (hl : m.toNat < levelOf src)
    (hh : ∀ x, x ≠ .vres → s.pending c x = true → levelOf x ≤ levelOf src) :
    pollChoice c m s = some src := by
  have h1 := hh .vint (by decide)
  have h2 := hh .hint (by decide)
  have h3 := hh .cmd (by decide)
  have h4 := hh .pwm (by decide)
  unfold pollChoice
  rw [if_neg hv]
  cases src <;> simp_all [firstEligible, levelOf]

theorem deliver_eq (c : CoreId) (src : Source) (s : State) :
    deliver c src s =
      { s with ib := (deliver c src s).ib, log := s.log ++ [.exception c src (vectorOf src)] } := by
  cases src <;> rfl

theorem deliver_maskable (c : CoreId) (src : Source) (s : State) (h : src ≠ .vres) :
    deliver c src s = { s with log := s.log ++ [.exception c src (vectorOf src)] } := by
  cases src <;> first | rfl | exact absurd rfl h

theorem deliver_latch (c : CoreId) (src : Source) (s : State) (d : CoreId) (x : Source) :
    (deliver c src s).latch d x =
      if d = c ∧ x = src ∧ src = .vres then { s.latch d x with active := false } else s.latch d x := by
  cases src <;> cases c <;> cases d <;> cases x <;> rfl

/-! ## Address decoding -/

theorem entryMatches_iff (p : Port) (a : Nat) (s : State) (e : Entry) :
    entryMatches p a s e = true ↔
      e.lo ≤ a ∧ a ≤ e.hi ∧ e.bus = p.bus ∧ condHolds p s e.cond = true := by
  simp [entryMatches, and_assoc]

theorem bestEntry_none (p : Port) (a : Nat) (s : State) : ∀ l : List Entry,
    bestEntry p a s l = none ↔ ∀ e ∈ l, ¬ entryMatches p a s e = true := by
  intro l
  induction l with
  | nil => simp [bestEntry]
  | cons e l ih =>
    unfold bestEntry
    cases he : entryMatches p a s e with
    | false => simp [ih, he]
    | true =>
      simp only [List.mem_cons, forall_eq_or_imp, he, not_true_eq_false, false_and, iff_false]
      split
      · simp
      · split <;> simp

/-- The entry that decoding takes matches, and no matching entry is smaller (20_memory R84). -/
theorem bestEntry_some (p : Port) (a : Nat) (s : State) : ∀ (l : List Entry) (e : Entry),
    bestEntry p a s l = some e →
      e ∈ l ∧ entryMatches p a s e = true
      ∧ ∀ f ∈ l, entryMatches p a s f = true → e.hi - e.lo ≤ f.hi - f.lo := by
  intro l
  induction l with
  | nil => simp [bestEntry]
  | cons x l ih =>
    intro e h
    unfold bestEntry at h
    cases hx : entryMatches p a s x with
    | false =>
      rw [hx] at h
      obtain ⟨h1, h2, h3⟩ := ih e h
      exact ⟨by simp [h1], h2, by simp_all⟩
    | true =>
      rw [hx] at h
      simp only at h
      cases hb : bestEntry p a s l with
      | none =>
        rw [hb] at h
        cases h
        rw [bestEntry_none] at hb
        refine ⟨by simp, hx, fun g hg hm => ?_⟩
        rcases List.mem_cons.mp hg with rfl | hg
        · exact le_refl _
        · exact absurd hm (hb g hg)
      | some f =>
        rw [hb] at h
        simp only at h
        obtain ⟨h1, h2, h3⟩ := ih f hb
        split at h
        · cases h
          rename_i hle
          refine ⟨by simp, hx, ?_⟩
          intro g hg hm
          rcases List.mem_cons.mp hg with rfl | hg
          · exact le_refl _
          · exact le_trans hle (h3 g hg hm)
        · cases h
          rename_i hle
          refine ⟨by simp [h1], h2, ?_⟩
          intro g hg hm
          rcases List.mem_cons.mp hg with rfl | hg
          · omega
          · exact h3 g hg hm

theorem decodeAddr_none (p : Port) (a : Addr) (s : State) :
    decodeAddr p a s = none ↔ ∀ e ∈ s.cfg.addrMap, ¬ entryMatches p (busAddr s.cfg p a) s e = true := by
  unfold decodeAddr
  rw [← bestEntry_none]
  split <;> simp_all

theorem decodeAddr_some {p : Port} {a : Addr} {s : State} {tg : Target} {off : Nat}
    (h : decodeAddr p a s = some (tg, off)) :
    ∃ e ∈ s.cfg.addrMap, entryMatches p (busAddr s.cfg p a) s e = true ∧ tg = e.target
      ∧ off = busAddr s.cfg p a - e.lo
      ∧ ∀ f ∈ s.cfg.addrMap, entryMatches p (busAddr s.cfg p a) s f = true → e.hi - e.lo ≤ f.hi - f.lo := by
  unfold decodeAddr at h
  split at h
  · simp at h
  · rename_i e he
    obtain ⟨h1, h2, h3⟩ := bestEntry_some _ _ _ _ _ he
    simp only [Option.some.injEq, Prod.mk.injEq] at h
    exact ⟨e, h1, h2, h.1.symm, h.2.symm, h3⟩

/-- Decoding reads only the configuration, the boot and cache flags and `ADAPTER_CTRL`. -/
theorem decodeAddr_congr (p : Port) (a : Addr) (s t : State) (hc : t.cfg = s.cfg)
    (hb : t.bootMapped = s.bootMapped) (he : t.cacheEn = s.cacheEn) (hd : t.aden = s.aden) :
    decodeAddr p a t = decodeAddr p a s := by
  have hcond : ∀ k, condHolds p t k = condHolds p s k := by
    intro k; cases k <;> simp [condHolds, hb, he, hd]
  have hm : ∀ n e, entryMatches p n t e = entryMatches p n s e := by
    intro n e; simp [entryMatches, hcond]
  have hbest : ∀ n l, bestEntry p n t l = bestEntry p n s l := by
    intro n l
    induction l with
    | nil => rfl
    | cons e l ih => simp only [bestEntry, hm, ih]
  simp [decodeAddr, hc, hbest]

/-- The facts that a well-formed configuration gives. -/
theorem Config.problem_none {cfg : Config} (h : cfg.problem = none) :
    cfg.parametersOk = true ∧ cfg.addrMap.all Entry.rangeOk = true
    ∧ cfg.addrMap.all (Entry.targetOk cfg) = true ∧ cfg.addrMap.all Entry.viewOk = true
    ∧ unambiguous cfg cfg.addrMap = true ∧ cfg.fields.ok = true ∧ cfg.engagementOk = true := by
  unfold Config.problem at h
  repeat' split at h
  all_goals simp_all

/-- An access inside a window stays inside it with both of its bytes (20_memory R84, R104). -/
theorem window_bound {p : Port} {a : Addr} {s : State} {tg : Target} {off : Nat}
    (hc : s.cfg.problem = none) (ha : a.getLsbD 0 = false)
    (h : decodeAddr p a s = some (tg, off)) :
    ∃ e ∈ s.cfg.addrMap, Entry.targetOk s.cfg e = true ∧ e.viewOk = true ∧ e.bus = p.bus
      ∧ tg = e.target ∧ off + 1 < e.bytes ∧ off % 2 = 0 := by
  obtain ⟨hp, hr, ht, hv, _⟩ := Config.problem_none hc
  obtain ⟨e, he, hm, h1, h2, _⟩ := decodeAddr_some h
  rw [List.all_eq_true] at hr ht hv
  have hr := hr e he
  simp only [Entry.rangeOk, Bool.and_eq_true, beq_iff_eq, Nat.ble_eq] at hr
  rw [entryMatches_iff] at hm
  have heven : busAddr s.cfg p a % 2 = 0 := by
    have h0 : a.toNat % 2 = 0 := by
      have : a.toNat.testBit 0 = false := by simpa [BitVec.getLsbD] using ha
      simpa [Nat.testBit_zero] using this
    cases p with
    | int c => exact h0
    | ext =>
      simp only [Config.parametersOk, Bool.and_eq_true, Nat.ble_eq] at hp
      have hx : 24 ≤ s.cfg.extAddrBits := by omega
      obtain ⟨k, hk⟩ : ∃ k, s.cfg.extAddrBits = k + 1 := ⟨s.cfg.extAddrBits - 1, by omega⟩
      simp only [busAddr, hk, pow_succ]
      rw [Nat.mul_comm, Nat.mod_mul_right_mod, h0]
  refine ⟨e, he, ht e he, hv e he, hm.2.2.1, h1, ?_, ?_⟩
  · simp only [Entry.bytes]; omega
  · omega

/-! ## `INT_MASK` reads -/

/-- Two one-bit fields do not overlap when their positions differ. -/
theorem bit_disjoint (p q : Nat) : (p + 1 ≤ q ∨ q + 1 ≤ p) ↔ p ≠ q := by omega

/-- Under a well-formed configuration the positions of `INT_MASK` are apart (30_encoding R131). -/
theorem enablePos_disjoint {cfg : Config} (h : cfg.problem = none) :
    (∀ x y q, enablePos cfg.fields x = some q → enablePos cfg.fields y = some q → x = y)
    ∧ (∀ x q, enablePos cfg.fields x = some q → q < 16 ∧ q ≠ cfg.fields.imAden ∧ q ≠ cfg.fields.imFm)
    ∧ cfg.fields.imAden < 16 ∧ cfg.fields.imFm < 16 ∧ cfg.fields.imAden ≠ cfg.fields.imFm := by
  have hf := (Config.problem_none h).2.2.2.2.2.1
  simp only [FieldPos.ok, Bool.and_eq_true] at hf
  replace hf := hf.1.1.1.1.1.1.2
  generalize cfg.fields = f at hf ⊢
  cases hv : f.enVres <;>
  · simp only [FieldPos.intMaskFields, hv, fieldsDisjoint, bitAt, List.cons_append, List.nil_append, List.all_cons,
      List.all_nil, Bool.and_eq_true, Bool.or_eq_true, Nat.ble_eq, bit_disjoint, and_true, le_refl, true_and] at hf
    simp only [Nat.succ_le_iff] at hf
    casesm* _ ∧ _
    refine ⟨fun x y q hx hy => ?_, fun x q hx => ?_, ‹_›, ‹_›, ‹_›⟩
    · cases x <;> cases y <;> simp only [enablePos, hv, Option.some.injEq, reduceCtorEq] at hx hy ⊢ <;>
        first
          | exact absurd (hx.trans hy.symm) ‹_›
          | exact absurd (hy.trans hx.symm) ‹_›
    · cases x <;> simp only [enablePos, hv, Option.some.injEq, reduceCtorEq] at hx <;> subst hx <;>
        exact ⟨‹_›, by first | assumption | exact Ne.symm ‹_›, by first | assumption | exact Ne.symm ‹_›⟩

/-- Showing one enable changes its own position only. -/
theorem showEnable_bit (c : CoreId) (s : State) (src : Source) (t : Half) (q : Nat) (hq : q < 16) :
    (showEnable c s t src).getLsbD q =
      if enablePos s.cfg.fields src = some q then (s.latch c src).enable else t.getLsbD q := by
  unfold showEnable
  cases h : enablePos s.cfg.fields src with
  | none => simp
  | some p =>
    simp only [Option.some.injEq]
    rw [putBit_getLsbD _ _ _ _ hq]
    simp only [eq_comm]

/-- Showing a list of enables leaves a position of none of them as it was (40_interrupt_router R180). -/
theorem showEnables_other (c : CoreId) (s : State) (q : Nat) (hq : q < 16) : ∀ (l : List Source) (t : Half),
    (∀ x ∈ l, enablePos s.cfg.fields x ≠ some q) → (l.foldl (showEnable c s) t).getLsbD q = t.getLsbD q
  | [], _, _ => rfl
  | x :: l, t, h => by
    rw [List.foldl_cons, showEnables_other c s q hq l _ (fun y hy => h y (List.mem_cons_of_mem _ hy)),
      showEnable_bit _ _ _ _ _ hq, if_neg (h x List.mem_cons_self)]

/-- Showing a list of enables shows each at its position, if no other has it (40_interrupt_router R180). -/
theorem showEnables_own (c : CoreId) (s : State) (q : Nat) (hq : q < 16) (x : Source)
    (hx : enablePos s.cfg.fields x = some q)
    (hu : ∀ y, enablePos s.cfg.fields y = some q → y = x) : ∀ (l : List Source) (t : Half), x ∈ l →
    (l.foldl (showEnable c s) t).getLsbD q = (s.latch c x).enable
  | [], _, h => by simp at h
  | y :: l, t, h => by
    rw [List.foldl_cons]
    by_cases hl : x ∈ l
    · exact showEnables_own c s q hq x hx hu l _ hl
    · have hy : x = y := by simpa [hl] using h
      subst hy
      rw [showEnables_other c s q hq l _ (fun z hz he => hl (hu z he ▸ hz)), showEnable_bit _ _ _ _ _ hq, if_pos hx]

/-! ## Fills -/

/-- A fill's range passes its check (43_framebuffer_arbiter R286). -/
theorem checkFill_none {b a n : Nat} (h : a % 2 = 0) (hb : a + 2 * n ≤ b) : checkFill b a n = none := by
  unfold checkFill
  rw [if_neg (by omega), if_neg (by omega)]

/-- The host's `FILL_DATA` write (43_framebuffer_arbiter R282). -/
theorem writeFillData_ext {w : Half} {s : State}
    (h : checkFill s.cfg.fbBankBytes (s.reg .fillAddr).toNat s.fillCount = none) :
    writeFillData .ext w s = .done
      { (s.setReg .fillData w).setDram s.acc (fillRun s.accDram (s.reg .fillAddr).toNat w s.fillCount) with
        fillAddrDirty := true } := by
  simp only [writeFillData, h]

/-- A core's `FILL_DATA` write (43_framebuffer_arbiter R283). -/
theorem writeFillData_int {c : CoreId} {w : Half} {s : State}
    (h : checkFill s.cfg.fbBankBytes (s.reg .fillAddr).toNat s.fillCount = none) :
    writeFillData (.int c) w s = .done
      { (s.setReg .fillData w).setFill c
          (some { addr := (s.reg .fillAddr).toNat, left := s.fillCount, data := w }) with
        fillAddrDirty := true } := by
  simp only [writeFillData, h]

end Sys2Proof.Machine
end

