-- ==== Sys2Proof/Laws/Effects.lean ====
section
/-! SUPPORT. Everything a bus read, a bus write, a drain and a transaction can do, said once:
`busRead_done`, `Wrote`, `drain_done` and `Ran` with `exec_next`. -/

namespace Sys2Proof.Machine

/-! ## Bus reads -/

theorem readLatch_state (l : Latch) (s : State) :
    ∃ k, (readLatch l s).2 = { s with draws := s.draws + k } := by
  unfold readLatch
  split <;> first
    | exact ⟨0, rfl⟩
    | exact ⟨1, rfl⟩
    | (split <;> first | exact ⟨1, rfl⟩ | exact ⟨0, rfl⟩)

theorem regRead_done {p : Port} {r : Reg} {off : Nat} {s : State} {x : Half × State}
    (h : regRead p r off s = .done x) : ∃ k, x.2 = { s with draws := s.draws + k } := by
  unfold regRead at h
  split at h
  · simp at h
  · simp at h
  · split at h <;> first
      | (simp only [Result.done.injEq] at h; subst h; exact readLatch_state _ _)
      | (simp only [Result.done.injEq] at h; subst h; exact ⟨1, rfl⟩)
      | (simp only [Result.done.injEq] at h; subst h; exact ⟨0, rfl⟩)
      | simp at h

theorem targetRead_done {p : Port} {tg : Target} {off : Nat} {s : State} {x : Option Half × State}
    (h : targetRead p tg off s = .done x) : ∃ k, x.2 = { s with draws := s.draws + k } := by
  have core : ∀ f, coreSpace p f s = .done x → ∃ k, x.2 = { s with draws := s.draws + k } := by
    intro f hf
    unfold coreSpace at hf
    split at hf
    · simp only [Result.done.injEq] at hf; subst hf; exact ⟨0, rfl⟩
    · simp at hf
  cases tg with
  | reg r =>
    obtain ⟨y, hy, rfl⟩ := Result.map_eq_done h
    exact regRead_done hy
  | boot => exact core _ h
  | cache => exact core _ h
  | progRom => simp only [targetRead, Result.done.injEq] at h; subst h; exact ⟨0, rfl⟩
  | romFixed => simp only [targetRead, Result.done.injEq] at h; subst h; exact ⟨0, rfl⟩
  | romBank => simp only [targetRead, Result.done.injEq] at h; subst h; exact ⟨0, rfl⟩
  | vecRom => simp only [targetRead, Result.done.injEq] at h; subst h; exact ⟨0, rfl⟩
  | cart => simp only [targetRead, Result.done.injEq] at h; subst h; exact ⟨0, rfl⟩
  | dram => simp only [targetRead, Result.done.injEq] at h; subst h; exact ⟨0, rfl⟩
  | sdram => simp only [targetRead, Result.done.injEq] at h; subst h; exact ⟨0, rfl⟩

/-- A bus read writes the log, and draws at most; it never delivers an interrupt. -/
theorem busRead_done {p : Port} {ln : Lanes} {a : Addr} {prior : Half} {s : State} {x : Half × State}
    (h : busRead p ln a prior s = .done x) :
    ∃ k e, x.2 = { s with draws := s.draws + k, log := s.log ++ [e] } ∧ Event.isException e = false := by
  unfold busRead at h
  split at h
  · simp only [Result.done.injEq] at h; subst h
    exact ⟨0, _, rfl, rfl⟩
  · obtain ⟨y, hy, hx⟩ := Result.map_eq_done h
    obtain ⟨k, hk⟩ := targetRead_done hy
    split at hx
    · subst hx
      exact ⟨k, _, by simp only [unmappedRead, hk]; rfl, rfl⟩
    · subst hx
      exact ⟨k, _, by simp only [hk]; rfl, rfl⟩

/-- A bus read of a target that gives a value. -/
theorem busRead_value {p : Port} {a : Addr} {s t : State} {tg : Target} {off : Nat} {v : Half}
    (ln : Lanes) (prior : Half) (hd : decodeAddr p a s = some (tg, off))
    (ht : targetRead p tg off s = .done (some v, t)) :
    busRead p ln a prior s =
      .done (merge16 prior v ln, t.addLog (.read p.agent a (merge16 prior v ln))) := by
  simp [busRead, hd, ht]

theorem targetRead_reg (p : Port) (r : Reg) (off : Nat) (s : State) :
    targetRead p (.reg r) off s = (regRead p r off s).map (fun x => (some x.1, x.2)) := rfl

theorem regRead_latch (p : Port) (l : Latch) (off : Nat) (s : State)
    (h : viewOf (.latch l) p.bus .read = .given) :
    regRead p (.latch l) off s = .done (readLatch l s) := by
  simp [regRead, h]

/-! ## Bus writes -/

/-- What a bus write can do (41_bus_decoder R206). -/
inductive Wrote (p : Port) (ln : Lanes) (a : Addr) (v : Half) (s : State) : State → Prop where
  | unmapped : Wrote p ln a v s (unmappedWrite p a s)
  | latch (l : Latch) (off : Nat) (t : State) : decodeAddr p a s = some (.reg (.latch l), off) →
      viewOf (.latch l) p.bus .write = .given → writeLatch p a l ln v s = .done t → Wrote p ln a v s t
  | intMask (c : CoreId) : p = .int c → Wrote p ln a v s (writeIntMask c ln v s)
  | intClr (c : CoreId) (src : Source) : p = .int c → Wrote p ln a v s (acknowledge c src s)
  | palette (off : Nat) : decodeAddr p a s = some (.reg .palette, off) →
      (∀ c, p = .int c → s.engagedPal = false) → Wrote p ln a v s (writePalette off ln v s)
  | dram (off : Nat) : decodeAddr p a s = some (.dram, off) →
      (∀ c, p = .int c → s.engagedFb = false) →
      Wrote p ln a v s (s.setDram s.acc (memWrite s.accDram off ln v))
  | sdram (off : Nat) : decodeAddr p a s = some (.sdram, off) →
      Wrote p ln a v s { s with sdram := memWrite s.sdram off ln v }
  | cache (c : CoreId) (off : Nat) : p = .int c → decodeAddr p a s = some (.cache, off) →
      Wrote p ln a v s (s.setCacheRam c (memWrite (s.cacheRam.get c) off ln v))

theorem gateWrite_done {p : Port} {res : Resource} {s after t : State}
    (h : gateWrite p res s after = .done t) :
    t = after ∧ ∀ c, p = .int c → s.engaged res = false := by
  cases p with
  | ext => simp only [gateWrite, Result.done.injEq] at h; exact ⟨h.symm, by simp⟩
  | int c =>
    unfold gateWrite at h
    cases hg : s.engaged res <;> simp_all

theorem busWrite_done {p : Port} {ln : Lanes} {a : Addr} {v : Half} {s t : State}
    (h : busWrite p ln a v s = .done t) : Wrote p ln a v s t := by
  unfold busWrite at h
  split at h
  · simp only [Result.done.injEq] at h; subst h; exact .unmapped
  · rename_i tg off hd
    cases tg with
    | reg r =>
      simp only [targetWrite, regWrite] at h
      split at h
      · simp at h
      · simp at h
      · rename_i hv
        split at h
        · exact .latch _ off t hd hv h
        · simp only [Result.done.injEq] at h; subst h; exact .intMask _ rfl
        · simp at h
        · simp only [Result.done.injEq] at h; subst h; exact .intClr _ _ rfl
        · simp at h
        · obtain ⟨rfl, hg⟩ := gateWrite_done h
          exact .palette off hd hg
    | boot => simp only [targetWrite, Result.done.injEq] at h; subst h; exact .unmapped
    | progRom => simp only [targetWrite, Result.done.injEq] at h; subst h; exact .unmapped
    | romFixed => simp only [targetWrite, Result.done.injEq] at h; subst h; exact .unmapped
    | romBank => simp only [targetWrite, Result.done.injEq] at h; subst h; exact .unmapped
    | vecRom => simp only [targetWrite, Result.done.injEq] at h; subst h; exact .unmapped
    | cart => simp only [targetWrite, Result.done.injEq] at h; subst h; exact .unmapped
    | dram =>
      obtain ⟨rfl, hg⟩ := gateWrite_done h
      exact .dram off hd hg
    | sdram => simp only [targetWrite, Result.done.injEq] at h; subst h; exact .sdram off hd
    | cache =>
      simp only [targetWrite] at h
      split at h
      · simp only [Result.done.injEq] at h; subst h; exact .cache _ off rfl hd
      · simp at h

theorem busWrite_eq {p : Port} {a : Addr} {s : State} {tg : Target} {off : Nat} (ln : Lanes) (v : Half)
    (hd : decodeAddr p a s = some (tg, off)) : busWrite p ln a v s = targetWrite p a tg off ln v s := by
  simp [busWrite, hd]

theorem busWrite_latch {p : Port} {a : Addr} {s : State} {l : Latch} {off : Nat} (ln : Lanes) (v : Half)
    (hd : decodeAddr p a s = some (.reg (.latch l), off))
    (hv : viewOf (.latch l) p.bus .write = .given) : busWrite p ln a v s = writeLatch p a l ln v s := by
  rw [busWrite_eq ln v hd]
  simp [targetWrite, regWrite, hv]

/-- The fields a write to a latch may change. -/
theorem writeLatch_frame {p : Port} {a : Addr} {l : Latch} {ln : Lanes} {v : Half} {s t : State}
    (h : writeLatch p a l ln v s = .done t) :
    t = { s with
      regs := t.regs, fifo := t.fifo, remaining := t.remaining, dreq := t.dreq, dram := t.dram,
      fill := t.fill, fillAddrDirty := t.fillAddrDirty, pwmFifo := t.pwmFifo, log := t.log } := by
  cases l with
  | dreqCtrl =>
    simp only [writeLatch, writeDreqCtrl] at h
    repeat' split at h
    all_goals first | (simp only [Result.done.injEq] at h; subst h; rfl) | simp at h
  | dreqLen =>
    simp only [writeLatch, writeDreqLen] at h
    split at h
    · simp at h
    · simp only [Result.done.injEq] at h; subst h; rfl
  | dreqFifo =>
    simp only [writeLatch, Result.done.injEq, writeDreqFifo] at h
    subst h
    split
    · unfold dropActiveAtZero; split <;> rfl
    · rfl
  | fillData =>
    simp only [writeLatch, writeFillData] at h
    split at h
    · simp at h
    · split at h <;> (simp only [Result.done.injEq] at h; subst h; rfl)
  | pwmLeft =>
    simp only [writeLatch, Result.done.injEq, pushSample] at h
    subst h; split <;> rfl
  | pwmRight =>
    simp only [writeLatch, Result.done.injEq, pushSample] at h
    subst h; split <;> rfl
  | pwmMono =>
    simp only [writeLatch, Result.done.injEq, pushSample] at h
    subst h; repeat' split
    all_goals rfl
  | _ => simp only [writeLatch, Result.done.injEq] at h; subst h; rfl

/-- The fields a bus write may change. -/
theorem Wrote.frame {p : Port} {ln : Lanes} {a : Addr} {v : Half} {s t : State}
    (h : Wrote p ln a v s t) :
    t = { s with
      ib := t.ib, regs := t.regs, fifo := t.fifo, remaining := t.remaining, dreq := t.dreq,
      dram := t.dram, palette := t.palette, fill := t.fill, fillAddrDirty := t.fillAddrDirty,
      pwmFifo := t.pwmFifo, cacheRam := t.cacheRam, sdram := t.sdram, log := t.log } := by
  cases h with
  | unmapped => rfl
  | latch l off t hd hv h => rw [writeLatch_frame h]
  | intMask c hp => rw [writeIntMask_eq]
  | intClr c src hp => rfl
  | palette off hd hg => rfl
  | dram off hd hg => rfl
  | sdram off hd => rfl
  | cache c off hp hd => rfl

/-- What a core's write to a latch leaves alone: the DREQ state, the banks, the other core's fill, and
every latch but its own. -/
theorem writeLatch_core {c : CoreId} {a : Addr} {l : Latch} {ln : Lanes} {v : Half} {s t : State}
    (hv : viewOf (.latch l) .int .write = .given) (h : writeLatch (.int c) a l ln v s = .done t) :
    t.fifo = s.fifo ∧ t.remaining = s.remaining ∧ t.dreq = s.dreq ∧ t.dram = s.dram
    ∧ t.fill.get c.other = s.fill.get c.other ∧ ∀ r, r ≠ l → t.reg r = s.reg r := by
  have hne : ∀ (w : Half) (r : Latch), r ≠ l → (s.setReg l w).reg r = s.reg r := by
    intro w r hr; simp [hr]
  cases l with
  | fillData =>
    simp only [writeLatch, writeFillData] at h
    split at h
    · simp at h
    · simp only [Result.done.injEq] at h
      subst h
      exact ⟨rfl, rfl, rfl, rfl, by simp [PerCore.get_set], hne _⟩
  | pwmLeft =>
    simp only [writeLatch, Result.done.injEq, pushSample] at h
    subst h
    split <;> exact ⟨rfl, rfl, rfl, rfl, rfl, hne _⟩
  | pwmRight =>
    simp only [writeLatch, Result.done.injEq, pushSample] at h
    subst h
    split <;> exact ⟨rfl, rfl, rfl, rfl, rfl, hne _⟩
  | pwmMono =>
    simp only [writeLatch, Result.done.injEq, pushSample] at h
    subst h
    repeat' split
    all_goals exact ⟨rfl, rfl, rfl, rfl, rfl, hne _⟩
  | adapterCtrl => simp [viewOf] at hv
  | bankSelect => simp [viewOf] at hv
  | dreqCtrl => simp [viewOf] at hv
  | dreqSrcHi => simp [viewOf] at hv
  | dreqSrcLo => simp [viewOf] at hv
  | dreqDstHi => simp [viewOf] at hv
  | dreqDstLo => simp [viewOf] at hv
  | dreqLen => simp [viewOf] at hv
  | dreqFifo => simp [viewOf] at hv
  | _ =>
    simp only [writeLatch, Result.done.injEq] at h
    subst h
    exact ⟨rfl, rfl, rfl, rfl, rfl, hne _⟩

/-- A latch that a core may write. -/
theorem viewOf_int_write {r : Latch} (h : viewOf (.latch r) .int .write = .given) :
    r ∉ [Latch.adapterCtrl, .bankSelect, .dreqCtrl, .dreqSrcHi, .dreqSrcLo, .dreqDstHi, .dreqDstLo, .dreqLen,
      .dreqFifo] := by
  cases r <;> simp_all [viewOf]

/-- What a core's bus write leaves alone: the DREQ state, the host's registers, and the other core's
fill, interrupt block and cache RAM; and the framebuffer and the palette while they are engaged. -/
theorem Wrote.core {c : CoreId} {ln : Lanes} {a : Addr} {v : Half} {s t : State}
    (h : Wrote (.int c) ln a v s t) :
    t.fifo = s.fifo ∧ t.remaining = s.remaining ∧ t.dreq = s.dreq
    ∧ (∀ r ∈ [Latch.adapterCtrl, .bankSelect, .dreqCtrl, .dreqSrcHi, .dreqSrcLo, .dreqDstHi, .dreqDstLo,
          .dreqLen, .dreqFifo], t.reg r = s.reg r)
    ∧ t.fill.get c.other = s.fill.get c.other ∧ t.cacheRam.get c.other = s.cacheRam.get c.other
    ∧ (∀ x, t.latch c.other x = s.latch c.other x)
    ∧ (s.engagedFb = true → t.dram = s.dram) ∧ (s.engagedPal = true → t.palette = s.palette) := by
  cases h with
  | unmapped => simp [unmappedWrite]
  | latch l off t hd hv h =>
    obtain ⟨h1, h2, h3, h4, h5, h6⟩ := writeLatch_core hv h
    have hf := writeLatch_frame h
    refine ⟨h1, h2, h3, ?_, h5, by rw [hf], fun x => by rw [hf]; rfl, fun _ => h4, fun _ => by rw [hf]⟩
    intro r hr
    refine h6 r ?_
    rintro rfl
    exact viewOf_int_write hv hr
  | intMask d hp =>
    cases hp
    have hw := writeIntMask_eq c ln v s
    refine ⟨by rw [hw], by rw [hw], by rw [hw], fun r _ => by rw [hw]; rfl, by rw [hw], by rw [hw], ?_,
      fun _ => by rw [hw], fun _ => by rw [hw]⟩
    intro x
    rw [writeIntMask_latch]
    split <;> simp
  | intClr d src hp =>
    cases hp
    refine ⟨rfl, rfl, rfl, fun r _ => rfl, rfl, rfl, ?_, fun _ => rfl, fun _ => rfl⟩
    intro x
    rw [acknowledge_latch]
    simp
  | palette off hd hg =>
    refine ⟨rfl, rfl, rfl, fun r _ => rfl, rfl, rfl, fun x => rfl, fun _ => rfl, fun he => ?_⟩
    rw [hg c rfl] at he
    simp at he
  | dram off hd hg =>
    refine ⟨rfl, rfl, rfl, fun r _ => rfl, rfl, rfl, fun x => rfl, fun he => ?_, fun _ => rfl⟩
    rw [hg c rfl] at he
    simp at he
  | sdram off hd => exact ⟨rfl, rfl, rfl, fun r _ => rfl, rfl, rfl, fun x => rfl, fun _ => rfl, fun _ => rfl⟩
  | cache d off hp hd =>
    cases hp
    exact ⟨rfl, rfl, rfl, fun r _ => rfl, rfl, by simp [PerCore.get_set], fun x => rfl, fun _ => rfl,
      fun _ => rfl⟩

/-- A core's bus write does not change engagement or decoding. -/
theorem Wrote.core_engaged {c : CoreId} {ln : Lanes} {a : Addr} {v : Half} {s t : State}
    (h : Wrote (.int c) ln a v s t) : t.engagedFb = s.engagedFb ∧ t.engagedPal = s.engagedPal := by
  have hr := h.core.2.2.2.1 .adapterCtrl (by simp)
  have hf := h.frame
  have h1 : t.cfg = s.cfg := by rw [hf]
  have h2 : t.vblank = s.vblank := by rw [hf]
  have h3 : t.hblank = s.hblank := by rw [hf]
  simp [State.engagedFb, State.engagedPal, State.raster, State.fm, hr, h1, h2, h3]

/-! ## The drain -/

/-- A drain that answers does nothing, or pops two words, writes them and advances its channel
(42_dreq_bridge R248). -/
theorem drain_done {c : CoreId} {s t : State} {r : Reply} (h : drain c s = .done (r, t)) :
    (r = .noDrain ∧ t = s)
    ∨ ∃ ch hi lo rest t1 t2, r = .drained ch ∧ s.drainsOn c ch ∧ s.fifo = hi :: lo :: rest
        ∧ (s.chan c ch).count ≠ 0#32 ∧ (s.chan c ch).dst.getLsbD 0 = false
        ∧ gated c (s.chan c ch).dst s = false ∧ gated c ((s.chan c ch).dst + 2#32) s = false
        ∧ Wrote (.int c) Lanes.full (s.chan c ch).dst hi (setFifo rest s) t1
        ∧ Wrote (.int c) Lanes.full ((s.chan c ch).dst + 2#32) lo t1 t2
        ∧ t = t2.setChan c ch (DmaChannel.afterTransfer (t2.chan c ch)) := by
  unfold drain at h
  split at h
  · simp only [Result.done.injEq, Prod.mk.injEq] at h
    exact .inl ⟨h.1.symm, h.2.symm⟩
  · rename_i ch hch
    have hon : s.drainsOn c ch := by
      unfold drainChannel at hch
      split at hch
      · cases hch; rename_i h0; exact ⟨h0, by simp⟩
      · split at hch
        · cases hch; rename_i h0 h1; exact ⟨h1, fun _ => by simpa [State.chan, PerChannel.get] using h0⟩
        · simp at hch
    unfold drainOn at h
    split at h
    · rename_i hi lo rest hf
      repeat' split at h
      · simp at h
      · simp at h
      · simp only [Result.done.injEq, Prod.mk.injEq] at h
        exact .inl ⟨h.1.symm, h.2.symm⟩
      · rename_i h1 h2 h3
        obtain ⟨t1, hw1, h⟩ := Result.bind_eq_done h
        obtain ⟨t2, hw2, h⟩ := Result.map_eq_done h
        simp only [Prod.mk.injEq] at h
        simp only [Bool.or_eq_true, not_or, Bool.not_eq_true] at h3
        exact .inr ⟨ch, hi, lo, rest, t1, t2, h.1.symm, hon, hf, h1, by simpa using h2, h3.1, h3.2,
          busWrite_done hw1, busWrite_done hw2, h.2.symm⟩
    · simp only [Result.done.injEq, Prod.mk.injEq] at h
      exact .inl ⟨h.1.symm, h.2.symm⟩

theorem drainChannel_drainsOn {c : CoreId} {ch : Channel} {s : State} (h : s.drainsOn c ch) :
    drainChannel (s.dma.get c) = some ch := by
  obtain ⟨h1, h2⟩ := h
  unfold drainChannel
  cases ch with
  | ch0 => simp only [State.chan, PerChannel.get] at h1; simp [h1]
  | ch1 =>
    have h2 := h2 rfl
    simp only [State.chan, PerChannel.get] at h1 h2
    simp [h1, h2]

/-- A poll that delivers nothing is a drain (40_interrupt_router R168). -/
theorem poll_quiet (c : CoreId) (m : BitVec 4) (s : State) (hf : s.fill.get c = none)
    (hq : s.quiet c m) : exec (.poll (.core c) m) s = finish (.core c) s (drain c s) := by
  simp [exec, execPoll, hf, pollEffect, (pollChoice_none c m s).mpr hq]

/-- The rest of a transfer after its first write. -/
theorem drain_transfer {c : CoreId} {ch : Channel} {hi lo : Half} {rest : List Half} {s : State}
    (hon : s.drainsOn c ch) (hf : s.fifo = hi :: lo :: rest) (hn : (s.chan c ch).count ≠ 0#32)
    (hd : (s.chan c ch).dst.getLsbD 0 = false) (hg1 : gated c (s.chan c ch).dst s = false)
    (hg2 : gated c ((s.chan c ch).dst + 2#32) s = false) :
    drain c s = drainTransfer c ch (s.chan c ch).dst hi lo (setFifo rest s) := by
  unfold drain
  rw [drainChannel_drainsOn hon]
  simp only [drainOn, hf]
  rw [if_neg hn, hd]
  simp [hg1, hg2]

/-! ## PWM -/

/-- What one tick does to the samples of a channel (44_pwm R306). -/
theorem tickSide_eq (s : State) (side : Side) :
    tickSide s side = { s with
      pwmFifo := s.pwmFifo.set side
        (match s.pwmMode side with
          | .on => (s.pwmFifo.get side).tail
          | .off => s.pwmFifo.get side
          | .illegal => s.pwmFifo.get side)
      pwmOut := s.pwmOut.set side
        (match s.pwmMode side with
          | .on => (s.pwmFifo.get side).head?.getD (s.pwmOut.get side)
          | .off => s.pwmOut.get side
          | .illegal => 0#16) } := by
  have h1 : ∀ (p : PerSide (List Half)), p.set side (p.get side) = p := by intro p; cases side <;> rfl
  have h2 : ∀ (p : PerSide Half), p.set side (p.get side) = p := by intro p; cases side <;> rfl
  unfold tickSide
  cases s.pwmMode side with
  | on =>
    cases hf : s.pwmFifo.get side with
    | nil => simp only [List.tail_nil, List.head?_nil, Option.getD_none, h2]; rw [← hf, h1]
    | cons x rest => rfl
  | off => simp [h1, h2]
  | illegal => simp [h1]

/-- A tick of both channels, from the state before it: neither channel's tick reads the other's samples. -/
theorem tickSides_get (s : State) (side : Side) :
    ((([Side.left, Side.right].foldl tickSide s).pwmFifo.get side) = (tickSide s side).pwmFifo.get side)
    ∧ (([Side.left, Side.right].foldl tickSide s).pwmOut.get side) = (tickSide s side).pwmOut.get side := by
  simp only [List.foldl, tickSide_eq]
  cases side <;> exact ⟨rfl, rfl⟩

theorem tickSides_frame (s : State) :
    [Side.left, Side.right].foldl tickSide s =
      { s with
        pwmFifo := ([Side.left, Side.right].foldl tickSide s).pwmFifo
        pwmOut := ([Side.left, Side.right].foldl tickSide s).pwmOut } := by
  simp only [List.foldl, tickSide_eq]

/-- The period step reads and writes no sample (44_pwm R307). -/
theorem pwmPeriodStep_frame (s : State) :
    pwmPeriodStep s = { s with
      ib := (pwmPeriodStep s).ib, dreq := (pwmPeriodStep s).dreq,
      periodCount := (pwmPeriodStep s).periodCount } := by
  unfold pwmPeriodStep
  split
  · simp only; split <;> rfl
  · rfl

/-- The fields a divider clock may change (44_pwm R305). -/
theorem pwmClock_frame (s : State) :
    pwmClock s = { s with
      ib := (pwmClock s).ib, dreq := (pwmClock s).dreq, pwmFifo := (pwmClock s).pwmFifo,
      pwmOut := (pwmClock s).pwmOut, divCount := (pwmClock s).divCount,
      periodCount := (pwmClock s).periodCount } := by
  unfold pwmClock
  split
  · rfl
  · split
    · unfold pwmTick
      rw [pwmPeriodStep_frame, tickSides_frame]
    · rfl

/-! ## Transactions -/

/-- Transaction `i` runs in `s` with answer `r` and effect `t` (its script not yet advanced). -/
inductive Ran : Instr → State → Reply → State → Prop where
  | read (p : Port) (u l : Bool) (a : Addr) (prior v : Half) (s t : State) :
      s.unheld p → callOk u l a → busRead p { u := u, l := l } a prior s = .done (v, t) →
      Ran (p.readTxn u l a prior) s (.value v) t
  | write (p : Port) (u l : Bool) (a : Addr) (v : Half) (s t : State) :
      s.unheld p → callOk u l a → Wrote p { u := u, l := l } a v s t → Ran (p.writeTxn u l a v) s .done t
  | raise (src : Source) (s : State) : Ran (.raise .env src) s .done (raiseSource src s)
  | ack (c : CoreId) (src : Source) (s : State) : Ran (.ack (.core c) src) s .done (acknowledge c src s)
  | seten (c : CoreId) (src : Source) (b : Bool) (s : State) :
      Ran (.seten (.core c) src b) s .done (setEnable c src b s)
  | interrupt (c : CoreId) (m : BitVec 4) (src : Source) (s : State) : pollChoice c m s = some src →
      Ran (.poll (.core c) m) s (.interrupt src) (deliver c src s)
  | drain (c : CoreId) (m : BitVec 4) (r : Reply) (s t : State) : s.quiet c m →
      drain c s = .done (r, t) → Ran (.poll (.core c) m) s r t
  | fillstepIdle (c : CoreId) (s : State) : s.fill.get c = none → Ran (.fillstep (.core c)) s .done s
  | fillstep (c : CoreId) (f : Fill) (s : State) : s.fill.get c = some f → s.engagedFb = false →
      Ran (.fillstep (.core c)) s .done
        ((s.setDram s.acc (memWrite s.accDram f.addr Lanes.full f.data)).setFill c (Fill.next f))
  | dmacfg (c : CoreId) (ch : Channel) (f : DmaField) (v : Addr) (s : State) :
      Ran (.dmacfg (.core c) ch f v) s .done (s.setChan c ch (DmaChannel.program (s.chan c ch) f v))
  | dmard (c : CoreId) (ch : Channel) (f : DmaField) (s : State) :
      Ran (.dmard (.core c) ch f) s (.dmaValue (DmaChannel.field (s.chan c ch) f))
        (s.addLog (.readDma c ch f (DmaChannel.field (s.chan c ch) f)))
  | bootexit (c : CoreId) (s : State) : Ran (.bootexit (.core c)) s .done (leaveBoot c s)
  | cachecfg (c : CoreId) (b : Bool) (s : State) : Ran (.cachecfg (.core c) b) s .done (setCache c b s)
  | vblank (line : Bool) (s : State) : Ran (.vblank .env line) s .done (vblankLine line s)
  | hblank (line : Bool) (s : State) : Ran (.hblank .env line) s .done (hblankLine line s)
  | pwmclk (s : State) : Ran (.pwmclk .env) s .done (pwmClock s)
  | reset (kind : ResetKind) (s : State) : Ran (.reset .env kind) s .done (resetEffect kind s)
  | serialize (s : State) : Ran (.serialize .env) s .done (s.addLog (.serialized (walk s) (serialize s)))

theorem coreTxn_next {op : BitVec 8} {ag : Agent} {s t : State} {k : CoreId → Result (Reply × State)}
    (h : coreTxn op ag s k = .next t) :
    (∃ hd, t = { s with reply := some (ag, .held hd) })
    ∨ ∃ c r u, ag = .core c ∧ s.fill.get c = none ∧ k c = .done (r, u) ∧ t = u.done ag r := by
  cases ag with
  | host => simp [coreTxn] at h
  | env => simp [coreTxn] at h
  | core c =>
    cases hf : s.fill.get c with
    | some f =>
      rw [coreTxn_busy _ _ _ _ f hf] at h
      simp only [Host.Outcome.next.injEq] at h
      exact .inl ⟨_, h.symm⟩
    | none =>
      rw [coreTxn_free _ _ _ _ hf] at h
      obtain ⟨r, u, h1, h2⟩ | ⟨hd, _, h2⟩ := finish_next h
      · exact .inr ⟨c, r, u, rfl, hf, h1, h2⟩
      · exact .inl ⟨hd, h2⟩

theorem envTxn_next {op : BitVec 8} {ag : Agent} {s t u : State}
    (h : envTxn op ag s (completed u) = .next t) : ag = .env ∧ t = u.done ag .done := by
  cases ag with
  | host => simp [envTxn] at h
  | core c => simp [envTxn] at h
  | env => simp only [envTxn_env, completed, finish_done, Host.Outcome.next.injEq] at h; exact ⟨rfl, h.symm⟩

theorem hostTxn_next {op : BitVec 8} {ag : Agent} {s t : State} {k : Result (Reply × State)}
    (h : hostTxn op ag s k = .next t) :
    (∃ hd, t = { s with reply := some (ag, .held hd) })
    ∨ ∃ r u, ag = .host ∧ k = .done (r, u) ∧ t = u.done ag r := by
  cases ag with
  | env => simp [hostTxn] at h
  | core c => simp [hostTxn] at h
  | host =>
    obtain ⟨r, u, h1, h2⟩ | ⟨hd, _, h2⟩ := finish_next h
    · exact .inr ⟨r, u, rfl, h1, h2⟩
    · exact .inl ⟨hd, h2⟩

/-- A transaction that answers a next state holds, or has run. -/
theorem exec_next {i : Instr} {s t : State} (h : exec i s = .next t) :
    (∃ hd, t = { s with reply := some (i.agent, .held hd) })
    ∨ ∃ r u, Ran i s r u ∧ t = u.done i.agent r := by
  have call : ∀ (p : Port) (u l : Bool) (a : Addr) (prior : Half) (r : Reply) (w : State), s.unheld p →
      readCall p { u := u, l := l } a prior s = .done (r, w) → Ran (p.readTxn u l a prior) s r w := by
    intro p u l a prior r w hu hk
    obtain ⟨h1, h2, h3⟩ := checkedCall_done hk
    obtain ⟨x, hx, h4⟩ := Result.map_eq_done h3
    simp only [Prod.mk.injEq] at h4
    obtain ⟨rfl, rfl⟩ := h4
    exact .read p u l a prior x.1 s x.2 hu ⟨h1, h2⟩ hx
  have wcall : ∀ (p : Port) (u l : Bool) (a : Addr) (v : Half) (r : Reply) (w : State), s.unheld p →
      writeCall p { u := u, l := l } a v s = .done (r, w) → Ran (p.writeTxn u l a v) s r w := by
    intro p u l a v r w hu hk
    obtain ⟨h1, h2, h3⟩ := checkedCall_done hk
    obtain ⟨x, hx, h4⟩ := Result.map_eq_done h3
    simp only [Prod.mk.injEq] at h4
    obtain ⟨rfl, rfl⟩ := h4
    exact .write p u l a v s x hu ⟨h1, h2⟩ (busWrite_done hx)
  cases i with
  | rdi ag u l a prior =>
    obtain h | ⟨c, r, w, rfl, hf, hk, h⟩ := coreTxn_next h
    · exact .inl h
    · exact .inr ⟨r, w, call (.int c) u l a prior r w hf hk, h⟩
  | wri ag u l a v =>
    obtain h | ⟨c, r, w, rfl, hf, hk, h⟩ := coreTxn_next h
    · exact .inl h
    · exact .inr ⟨r, w, wcall (.int c) u l a v r w hf hk, h⟩
  | rdx ag u l a prior =>
    obtain h | ⟨r, w, rfl, hk, h⟩ := hostTxn_next h
    · exact .inl h
    · exact .inr ⟨r, w, call .ext u l a prior r w trivial hk, h⟩
  | wrx ag u l a v =>
    obtain h | ⟨r, w, rfl, hk, h⟩ := hostTxn_next h
    · exact .inl h
    · exact .inr ⟨r, w, wcall .ext u l a v r w trivial hk, h⟩
  | raise ag src => obtain ⟨rfl, h⟩ := envTxn_next h; exact .inr ⟨_, _, .raise src s, h⟩
  | ack ag src =>
    obtain h | ⟨c, r, w, rfl, hf, hk, h⟩ := coreTxn_next h
    · exact .inl h
    · cases hk; exact .inr ⟨_, _, .ack c src s, h⟩
  | seten ag src b =>
    obtain h | ⟨c, r, w, rfl, hf, hk, h⟩ := coreTxn_next h
    · exact .inl h
    · cases hk; exact .inr ⟨_, _, .seten c src b s, h⟩
  | poll ag m =>
    obtain h | ⟨c, r, w, rfl, hf, hk, h⟩ := coreTxn_next h
    · exact .inl h
    · simp only [pollEffect] at hk
      split at hk
      · rename_i src hsrc
        cases hk; exact .inr ⟨_, _, .interrupt c m src s hsrc, h⟩
      · rename_i hq
        exact .inr ⟨_, _, .drain c m r s w ((pollChoice_none c m s).mp hq) hk, h⟩
  | fillstep ag =>
    cases ag with
    | host => simp [exec, execFillstep, fillTxn] at h
    | env => simp [exec, execFillstep, fillTxn] at h
    | core c =>
      simp only [exec, execFillstep, fillTxn_core] at h
      obtain ⟨r, w, hk, h⟩ | ⟨hd, _, h⟩ := finish_next h
      · unfold fillStep at hk
        split at hk
        · rename_i hf; cases hk; exact .inr ⟨_, _, .fillstepIdle c s hf, h⟩
        · rename_i f hf
          split at hk
          · simp at hk
          · rename_i hg
            cases hk; exact .inr ⟨_, _, .fillstep c f s hf (by simpa using hg), h⟩
      · exact .inl ⟨hd, h⟩
  | dmacfg ag ch f v =>
    obtain h | ⟨c, r, w, rfl, hf, hk, h⟩ := coreTxn_next h
    · exact .inl h
    · cases hk; exact .inr ⟨_, _, .dmacfg c ch f v s, h⟩
  | dmard ag ch f =>
    obtain h | ⟨c, r, w, rfl, hf, hk, h⟩ := coreTxn_next h
    · exact .inl h
    · cases hk; exact .inr ⟨_, _, .dmard c ch f s, h⟩
  | bootexit ag =>
    obtain h | ⟨c, r, w, rfl, hf, hk, h⟩ := coreTxn_next h
    · exact .inl h
    · cases hk; exact .inr ⟨_, _, .bootexit c s, h⟩
  | cachecfg ag b =>
    obtain h | ⟨c, r, w, rfl, hf, hk, h⟩ := coreTxn_next h
    · exact .inl h
    · cases hk; exact .inr ⟨_, _, .cachecfg c b s, h⟩
  | vblank ag line => obtain ⟨rfl, h⟩ := envTxn_next h; exact .inr ⟨_, _, .vblank line s, h⟩
  | hblank ag line => obtain ⟨rfl, h⟩ := envTxn_next h; exact .inr ⟨_, _, .hblank line s, h⟩
  | pwmclk ag => obtain ⟨rfl, h⟩ := envTxn_next h; exact .inr ⟨_, _, .pwmclk s, h⟩
  | reset ag kind => obtain ⟨rfl, h⟩ := envTxn_next h; exact .inr ⟨_, _, .reset kind s, h⟩
  | serialize ag => obtain ⟨rfl, h⟩ := envTxn_next h; exact .inr ⟨_, _, .serialize s, h⟩

/-! ## Streams -/

/-- Every format round-trips (00_scope R10): the walk of the stream of `s` is the walk of `s`. -/
@[simp] theorem readStream_serialize (s : State) : readStream s.cfg.serialFormat (serialize s) = some (walk s) := by
  simp [readStream, serialize]

/-- Reading a state's stream back, under a configuration of the same format, is reading its walk back. -/
theorem deserialize_serialize {s t : State} (h : t.cfg.serialFormat = s.cfg.serialFormat) :
    deserialize (serialize s) t = restore (walk s) t := by
  simp [deserialize, h]

end Sys2Proof.Machine
end

