-- ==== Sys2Proof/Laws/PerInstr.lean ====
section
/-! SUPPORT. Statements made for each transaction. `RoundTrip`: the word of a well-formed transaction
decodes to it, with every operand. -/

namespace Sys2Proof.Laws.RoundTrip

/-- Decoding the word of `i` gives `i` back, for every width of the count field. -/
def Statement (i : Instr) : Prop :=
  ∀ countBits, i.wellFormed countBits = true → decode countBits (encode i) = .ok i

theorem rdi (ag : Agent) (u l : Bool) (a : Addr) (prior : Half) :
    Statement (.rdi ag u l a prior) := by
  intro cb _
  rw [decode_encode_eq]
  simp [decodeTxn, encodeTxn, Instr.opcode, Txn.guardZero, busTxn]

theorem wri (ag : Agent) (u l : Bool) (a : Addr) (v : Half) :
    Statement (.wri ag u l a v) := by
  intro cb _
  rw [decode_encode_eq]
  simp [decodeTxn, encodeTxn, Instr.opcode, Txn.guardZero, busTxn]

theorem rdx (ag : Agent) (u l : Bool) (a : Addr) (prior : Half) :
    Statement (.rdx ag u l a prior) := by
  intro cb _
  rw [decode_encode_eq]
  simp [decodeTxn, encodeTxn, Instr.opcode, Txn.guardZero, busTxn]

theorem wrx (ag : Agent) (u l : Bool) (a : Addr) (v : Half) :
    Statement (.wrx ag u l a v) := by
  intro cb _
  rw [decode_encode_eq]
  simp [decodeTxn, encodeTxn, Instr.opcode, Txn.guardZero, busTxn]

theorem raise (ag : Agent) (src : Source) :
    Statement (.raise ag src) := by
  intro cb _
  rw [decode_encode_eq]
  simp [decodeTxn, encodeTxn, Instr.opcode, Txn.guardZero, argTxn, Txn.plain, decodeSource, Txn.argLow, Txn.argHi]

theorem ack (ag : Agent) (src : Source) :
    Statement (.ack ag src) := by
  intro cb _
  rw [decode_encode_eq]
  simp [decodeTxn, encodeTxn, Instr.opcode, Txn.guardZero, argTxn, Txn.plain, decodeSource, Txn.argLow, Txn.argHi]

theorem seten (ag : Agent) (src : Source) (value : Bool) :
    Statement (.seten ag src value) := by
  intro cb _
  rw [decode_encode_eq]
  simp [decodeTxn, encodeTxn, Instr.opcode, Txn.guardZero, argTxn, Txn.plain, decodeSource, Txn.argLow, Txn.argHi]

theorem poll (ag : Agent) (mask : BitVec 4) :
    Statement (.poll ag mask) := by
  intro cb _
  rw [decode_encode_eq]
  simp [decodeTxn, encodeTxn, Instr.opcode, Txn.guardZero, argTxn, Txn.plain]

theorem fillstep (ag : Agent) :
    Statement (.fillstep ag) := by
  intro cb _
  rw [decode_encode_eq]
  simp [decodeTxn, encodeTxn, Instr.opcode, Txn.guardZero, argTxn, Txn.plain]

theorem dmacfg (ag : Agent) (ch : Channel) (field : DmaField) (value : Addr) :
    Statement (.dmacfg ag ch field value) := by
  intro cb h
  rw [decode_encode_eq]
  cases field <;>
    simp_all [decodeTxn, encodeTxn, argTxn, Instr.opcode, Txn.guardZero, decodeDmaField, Txn.argLow,
      Txn.argHi, decodeDmaValue, Instr.wellFormed, dmaValueOk]

theorem dmard (ag : Agent) (ch : Channel) (field : DmaField) :
    Statement (.dmard ag ch field) := by
  intro cb _
  rw [decode_encode_eq]
  simp [decodeTxn, encodeTxn, Instr.opcode, Txn.guardZero, argTxn, Txn.plain, decodeDmaField, Txn.argLow, Txn.argHi]

theorem bootexit (ag : Agent) :
    Statement (.bootexit ag) := by
  intro cb _
  rw [decode_encode_eq]
  simp [decodeTxn, encodeTxn, Instr.opcode, Txn.guardZero, argTxn, Txn.plain]

theorem cachecfg (ag : Agent) (enable : Bool) :
    Statement (.cachecfg ag enable) := by
  intro cb _
  rw [decode_encode_eq]
  simp [decodeTxn, encodeTxn, Instr.opcode, Txn.guardZero, argTxn, Txn.plain, Txn.argBit]

theorem vblank (ag : Agent) (line : Bool) :
    Statement (.vblank ag line) := by
  intro cb _
  rw [decode_encode_eq]
  simp [decodeTxn, encodeTxn, Instr.opcode, Txn.guardZero, argTxn, Txn.plain, Txn.argBit]

theorem hblank (ag : Agent) (line : Bool) :
    Statement (.hblank ag line) := by
  intro cb _
  rw [decode_encode_eq]
  simp [decodeTxn, encodeTxn, Instr.opcode, Txn.guardZero, argTxn, Txn.plain, Txn.argBit]

theorem pwmclk (ag : Agent) :
    Statement (.pwmclk ag) := by
  intro cb _
  rw [decode_encode_eq]
  simp [decodeTxn, encodeTxn, Instr.opcode, Txn.guardZero, argTxn, Txn.plain]

theorem reset (ag : Agent) (kind : ResetKind) :
    Statement (.reset ag kind) := by
  intro cb _
  rw [decode_encode_eq]
  simp [decodeTxn, encodeTxn, Instr.opcode, Txn.guardZero, argTxn, Txn.plain, Txn.argBit]

theorem serialize (ag : Agent) :
    Statement (.serialize ag) := by
  intro cb _
  rw [decode_encode_eq]
  simp [decodeTxn, encodeTxn, Instr.opcode, Txn.guardZero, argTxn, Txn.plain]

end Sys2Proof.Laws.RoundTrip
end

