-- ==== Sys2Proof/Tests/Slice0.lean ====
section
/-! SUPPORT. The model's own tests: the well-formedness check, a word of the spec for every transaction,
single steps whose results are those of spec/95_test_vectors.md, and a witness for the hypotheses of
every obligation that has some. -/

open Sys2Proof Sys2Proof.Machine

namespace Sys2Proof.Tests

set_option Elab.async false

/-! ## Well-formedness -/

theorem test_wf_refuses_ctrl_bit6 :
    (Instr.dmacfg (.core .m) .ch0 .ctrl 64).wellFormed 24 = false := by decide
theorem test_wf_takes_ctrl_bit5 :
    (Instr.dmacfg (.core .m) .ch0 .ctrl 63).wellFormed 24 = true := by decide
theorem test_wf_refuses_count :
    (Instr.dmacfg (.core .m) .ch0 .count 0x1000000).wellFormed 24 = false := by decide
theorem test_wf_takes_count :
    (Instr.dmacfg (.core .m) .ch0 .count 0xFFFFFF).wellFormed 24 = true := by decide

/-! ## One word of every transaction, from 95_test_vectors and 30_encoding R120 to R126 -/

theorem test_word_rdi : decode 24 0x015006000010FFFF = .ok (.rdi (.core .m) false true 0x06000010 0xFFFF) := by
  decide
theorem test_word_wri : decode 24 0x02A000004020AB00 = .ok (.wri (.core .s) true false 0x00004020 0xAB00) := by
  decide
theorem test_word_rdx : decode 24 0x032000A1512000EE = .ok (.rdx .host true false 0x00A15120 0x00EE) := by
  decide
theorem test_word_wrx : decode 24 0x043000A151100004 = .ok (.wrx .host true true 0x00A15110 0x0004) := by
  decide
theorem test_word_raise : decode 24 0x10C3000000000000 = .ok (.raise .env .cmd) := by decide
theorem test_word_ack : decode 24 0x1181000000000000 = .ok (.ack (.core .s) .vint) := by decide
theorem test_word_seten : decode 24 0x1249000000000000 = .ok (.seten (.core .m) .vint true) := by decide
theorem test_word_poll : decode 24 0x204B000000000000 = .ok (.poll (.core .m) 11) := by decide
theorem test_word_fillstep : decode 24 0x2140000000000000 = .ok (.fillstep (.core .m)) := by decide
theorem test_word_dmacfg :
    decode 24 0x2281060010000000 = .ok (.dmacfg (.core .s) .ch0 .dst 0x06001000) := by decide
theorem test_word_dmard : decode 24 0x238B000000000000 = .ok (.dmard (.core .s) .ch1 .ctrl) := by decide
theorem test_word_bootexit : decode 24 0x2480000000000000 = .ok (.bootexit (.core .s)) := by decide
theorem test_word_cachecfg : decode 24 0x2541000000000000 = .ok (.cachecfg (.core .m) true) := by decide
theorem test_word_vblank : decode 24 0x30C1000000000000 = .ok (.vblank .env true) := by decide
theorem test_word_hblank : decode 24 0x31C1000000000000 = .ok (.hblank .env true) := by decide
theorem test_word_pwmclk : decode 24 0x40C0000000000000 = .ok (.pwmclk .env) := by decide
theorem test_word_reset : decode 24 0x50C1000000000000 = .ok (.reset .env .reset) := by decide
theorem test_word_serialize : decode 24 0x60C0000000000000 = .ok (.serialize .env) := by decide

/-- V-E1 to V-E9 and V-E13. -/
theorem test_refused_words :
    decode 24 0x0540000000000000 = .rejected .opcode
    ∧ decode 24 0x10C5000000000000 = .rejected .sourceCode
    ∧ decode 24 0x2244000000000000 = .rejected .dmaFieldCode
    ∧ decode 24 0x2243000000400000 = .rejected .ctrlBits
    ∧ decode 24 0x2282010000000000 = .rejected .countRange
    ∧ decode 24 0x30C2000000000000 = .rejected .mustBeZero
    ∧ decode 24 0x2040000000040000 = .rejected .mustBeZero
    ∧ decode 24 0x2160000000000000 = .rejected .mustBeZero
    ∧ decode 24 0x50C2000000000000 = .rejected .mustBeZero
    ∧ decode 24 0x2205000000000000 = .rejected .dmaFieldCode := by decide

/-! ## Helpers -/

def nextOf : Host.Outcome State Fault Refusal → Option State
  | .next t => some t
  | .fault _ => none
  | .refused _ => none

def faultOf : Host.Outcome State Fault Refusal → Option Fault
  | .next _ => none
  | .fault r => some r
  | .refused _ => none

def refusalOf : Host.Outcome State Fault Refusal → Option Refusal
  | .next _ => none
  | .fault _ => none
  | .refused r => some r

/-- `P0` of 95_test_vectors. -/
def p0 : State := State.reset
/-- `P0+A`: `ADEN = 1`. -/
def p0a : State := p0.setReg .adapterCtrl 0x0001

/-- One step that runs word `w`, then what `f` sees of the next state. -/
def sees {α : Type} (s : State) (w : Nat) (f : State → α) : Option α :=
  (nextOf (step (s.withFetchWord 64 w))).map f

def answered (t : State) : Option Reply := t.reply.map Prod.snd

/-- A latch pair. -/
def pair (e a : Bool) : LatchPair := { enable := e, active := a }

/-- A state with one latch pair set. -/
def State.withPair (s : State) (c : CoreId) (src : Source) (e a : Bool) : State :=
  { s with ib := s.ib.set c src (pair e a) }

/-- A channel with a destination, a count and its enable set. -/
def channel (dst count : Addr) : DmaChannel := { DmaChannel.clear with dst := dst, count := count, enable := true }

/-! ## Single steps -/

/-- The host asks for this: the table row's word runs as the first instruction after reset. -/
theorem test_reset_runs_a_word : sees State.reset 0x30C1000000000000 (fun t => t.vblank) = some true := by
  decide +kernel
theorem test_default_configuration : Config.default.problem = none := by decide +kernel
theorem test_reset_memories : State.reset.memoriesWf = true ∧ State.reset.memoriesSized = true := by decide

/-- V-B1. -/
theorem test_rdi : sees { p0 with sdram := [(0x10, 0x12), (0x11, 0x34)] } 0x015006000010FFFF answered
    = some (some (.value 0xFF34)) := by decide +kernel
/-- V-B7. -/
theorem test_rdi_odd : faultOf (step (p0.withFetchWord 64 0x0170000000010000)) = some .misalignedCall := by
  decide +kernel
/-- V-B2. -/
theorem test_wri : sees (p0.setReg (.comm 0) 0x1234) 0x02A000004020AB00 (fun t => t.reg (.comm 0))
    = some 0xAB34 := by decide +kernel
/-- V-F2: held, and the transaction stays in the script. -/
theorem test_wri_held : sees p0a 0x02B0040000001234 (fun t => (answered t, t.script, t.dram))
    = some (some (.held (.writeEngaged .s .fb)), [0x02B0040000001234], p0a.dram) := by decide +kernel
/-- V-B4. -/
theorem test_rdx_gate : sees p0 0x033000A151261234 answered = some (some (.value 0x1234)) := by decide +kernel
/-- V-F8. -/
theorem test_rdx_palette : sees { p0a with palette := [(3, 0x1FF)] } 0x033000A152060000 answered
    = some (some (.value 0x01FF)) := by decide +kernel
/-- V-B4a. -/
theorem test_wrx : sees p0 0x043000A151008001 (fun t => (t.aden, t.fm)) = some (true, true) := by decide +kernel
/-- V-D19. -/
theorem test_wrx_fifo :
    sees { p0a.setReg .dreqCtrl 0x0004 with remaining := 1 } 0x043000A15112BEEF
      (fun t => (t.fifo, t.dreqActive, t.dreq)) = some ([0xBEEF], false, both true) := by decide +kernel
/-- V-I5. -/
theorem test_raise_vres : sees p0 0x10C0000000000000
    (fun t => (t.latch .s .vres, t.latch .m .vres)) = some (pair false true, pair false false) := by
  decide +kernel
/-- V-I8. -/
theorem test_raise_cmd : sees p0 0x10C3000000000000
    (fun t => (t.latch .m .cmd, t.latch .s .cmd)) = some (pair false true, pair false true) := by decide +kernel
/-- V-I11. -/
theorem test_ack :
    sees (State.withPair (State.withPair p0 .s .vint true true) .m .vint true true) 0x1181000000000000
      (fun t => (t.latch .s .vint, t.latch .m .vint)) = some (pair true false, pair true true) := by
  decide +kernel
/-- V-I6. -/
theorem test_seten_vres : sees p0 0x1248000000000000 (fun t => t.ib) = some p0.ib := by decide +kernel
/-- V-I10. -/
theorem test_seten : sees (State.withPair p0 .m .vint false true) 0x1249000000000000
    (fun t => (t.latch .m .vint, t.log)) = some (pair true true, []) := by decide +kernel
/-- V-I4. -/
theorem test_poll_vres :
    sees (State.withPair (State.withPair p0 .s .vres true true) .s .vint true true) 0x208F000000000000
      (fun t => (t.log, t.latch .s .vres, t.latch .s .vint))
      = some ([.exception .s .vres 71], pair true false, pair true true) := by decide +kernel
/-- V-D12: the lowest channel, one transfer. -/
theorem test_poll_drain :
    sees { p0a with fifo := [0x1111, 0x2222],
                    dma := p0a.dma.set .s { c0 := channel 0x06000100 1, c1 := channel 0x06000000 1 } }
      0x208F000000000000
      (fun t => (t.sdram, t.fifo, (t.chan .s .ch0).dst, (t.chan .s .ch0).complete, t.chan .s .ch1))
      = some ([(0x100, 0x11), (0x101, 0x11), (0x102, 0x22), (0x103, 0x22)], [], 0x06000104, true,
              channel 0x06000000 1) := by decide +kernel
/-- V-F14. -/
theorem test_fillstep :
    sees { p0a.setReg .adapterCtrl 0x8001 with
        fill := { m := some { addr := 0x40, left := 1, data := 0 }, s := none }
        dram := { b0 := [], b1 := [(0x40, 0xAA), (0x41, 0xBB)] } } 0x2140000000000000
      (fun t => (t.dram.b1, t.fill.m)) = some ([], none) := by decide +kernel
/-- V-F15. -/
theorem test_fillstep_held :
    sees { p0a with fill := { m := some { addr := 0x40, left := 1, data := 0 }, s := none } } 0x2140000000000000
      answered = some (some (.held (.writeEngaged .m .fb))) := by decide +kernel
/-- V-D1, step 6. -/
theorem test_dmacfg : sees p0 0x2281060010000000 (fun t => (t.chan .s .ch0).dst) = some 0x06001000 := by
  decide +kernel
/-- The `DMARD` after V-D1. -/
theorem test_dmard :
    sees { p0 with dma := p0.dma.set .s { c0 := { DmaChannel.clear with complete := true }, c1 := DmaChannel.clear } }
      0x2383000000000000 answered = some (some (.dmaValue 0x2)) := by decide +kernel
/-- V-B12. -/
theorem test_bootexit : sees p0 0x2440000000000000 (fun t => (t.bootMapped.m, t.bootMapped.s))
    = some (false, true) := by decide +kernel
/-- V-B13, its first transaction. -/
theorem test_cachecfg : sees p0 0x2541000000000000 (fun t => (t.cacheEn.m, t.cacheEn.s)) = some (true, false) := by
  decide +kernel
/-- V-I18, its second transaction: no edge. -/
theorem test_vblank_no_edge : sees { p0 with vblank := true } 0x30C1000000000000 (fun t => t.ib) = some p0.ib := by
  decide +kernel
/-- V-I20. -/
theorem test_hblank : sees p0 0x31C1000000000000 (fun t => (t.latch .m .hint, t.latch .s .hint))
    = some (pair false true, pair false true) := by decide +kernel
/-- V-P1, step 5. -/
theorem test_pwmclk_period :
    sees { (p0a.setReg .pwmCycle 1).setReg .pwmCtrl 0x0380 with periodCount := 2 } 0x40C0000000000000
      (fun t => (t.periodCount, t.latch .m .pwm, t.latch .s .pwm, t.dreq))
      = some (0, pair false true, pair false true, both true) := by decide +kernel
/-- V-P10. -/
theorem test_pwmclk_tick : sees { p0a.setReg .pwmCycle 4 with divCount := 3 } 0x40C0000000000000
    (fun t => (t.divCount, t.periodCount)) = some (0, 1) := by decide +kernel
/-- The example of 70_reset R360, and the memories that a reset keeps. -/
theorem test_reset :
    sees { State.withPair p0 .s .vint true true with bootMapped := both false, sdram := [(5, 7)] }
      0x50C1000000000000 (fun t => (t.latch .s .vint, t.bootMapped, t.sdram))
      = some (pair false false, both true, [(5, 7)]) := by decide +kernel
/-- 70_reset R366: 10_state R72's walk starts with the 27 latches in register-id order. -/
theorem test_serialize :
    sees (p0.setReg .bankSelect 0x1234) 0x60C0000000000000
      (fun t => t.log.map (fun e => match e with | .serialized w _ => w.take 2 | _ => []))
      = some [[.half 0, .half 0x1234]] := by decide +kernel
/-- V-E10. -/
theorem test_bad_agent : faultOf (step (p0.withFetchWord 64 0x2000000000000000))
    = some (.badAgent 0x20 .host) := by decide +kernel
/-- V-E2. -/
theorem test_bad_word : refusalOf (step (p0.withFetchWord 64 0x10C5000000000000))
    = some (.badWord .sourceCode) := by decide +kernel

/-! ## Witnesses: states and operands that meet the hypotheses of each obligation -/

/-- A quiet state: no latch pair is set. -/
theorem quiet_of_clear (s : State) (c : CoreId) (m : BitVec 4) (h : s.ib = IntRouter.clear) : s.quiet c m := by
  have hp : ∀ c x, s.pending c x = false := by
    intro c x
    unfold State.pending State.latch
    rw [h]
    cases c <;> cases x <;> rfl
  exact ⟨by simp [hp], by simp [hp]⟩

/-- A state with words in the FIFO and channel 0 of the Slave enabled. -/
def draining (fifo : List Half) (dst count : Addr) : State :=
  { p0a with fifo := fifo, dma := p0a.dma.set .s { c0 := channel dst count, c1 := DmaChannel.clear } }

theorem draining_quiet (fifo : List Half) (dst count : Addr) (m : BitVec 4) :
    (draining fifo dst count).quiet .s m := quiet_of_clear _ _ _ rfl
theorem draining_drainsOn (fifo : List Half) (dst count : Addr) :
    (draining fifo dst count).drainsOn .s .ch0 := ⟨rfl, by simp⟩

theorem witness_DecodeOfEncodeIsTheTransaction :
    (Instr.dmacfg (.core .s) .ch1 .count 0xFFFFFFFF).wellFormed 32 = true := by decide
theorem witness_EncodeOfDecodeIsTheWord :
    decode 24 0x2282000000020000 = .ok (.dmacfg (.core .s) .ch0 .count 2) := by decide

/-- A script with a word for every agent. -/
def busyScript : List TxnWord :=
  [0x43000A151100004, 0x2040000000000000, 0x2080000000000000, 0x40C0000000000000]

theorem witness_StepRunsTheDecodedTransaction_turn :
    { p0 with turns := [.env], script := busyScript }.unmarked
    ∧ p0.cfg.problem = none ∧ decode p0.cfg.dmaCountBits 0x40C0000000000000 = .ok (.pwmclk .env)
    ∧ busyScript.find? (fun x => wordAgent x = .env) = some 0x40C0000000000000 :=
  ⟨⟨rfl, rfl⟩, by decide +kernel, by decide, by decide⟩

theorem witness_StepRunsTheDecodedTransaction_free : ∃ w i,
    busyScript.find? (fun x => wordAgent x = Config.freeTurn 0) = some w ∧ decode 24 w = .ok i := by
  generalize Config.freeTurn 0 = ag
  rcases ag with _ | c | _
  · exact ⟨0x43000A151100004, .wrx .host true true 0x00A15110 0x0004, by decide, by decide⟩
  · cases c
    · exact ⟨0x2040000000000000, .poll (.core .m) 0, by decide, by decide⟩
    · exact ⟨0x2080000000000000, .poll (.core .s) 0, by decide, by decide⟩
  · exact ⟨0x40C0000000000000, .pwmclk .env, by decide, by decide⟩

theorem witness_StopsSetOnlyTheirMark_fault :
    faultOf (step { p0 with turns := [.host], script := [0x2000000000000000] })
      = some (.badAgent 0x20 .host) := by decide +kernel
theorem witness_StopsSetOnlyTheirMark_refused :
    refusalOf (step { p0 with turns := [.env], script := [0x10C5000000000000] })
      = some (.badWord .sourceCode)
    ∧ decode p0.cfg.dmaCountBits 0x10C5000000000000 = .rejected .sourceCode := ⟨by decide +kernel, by decide⟩
/-- V-E of a configuration: a FIFO of depth 1. -/
theorem witness_StopsSetOnlyTheirMark_configuration :
    { p0 with cfg := { p0.cfg with dreqDepth := 1 } }.unmarked
    ∧ { p0.cfg with dreqDepth := 1 }.problem = some .parameter := ⟨⟨rfl, rfl⟩, by decide +kernel⟩
theorem witness_MarksAreSticky : ¬ { p0 with fault := some .noLane }.unmarked := by simp [State.unmarked]
theorem witness_WrongAgentFaults : Instr.admitted (.poll .host 0) = false := by decide

theorem witness_BusCallsAreChecked_odd :
    p0.unheld (.int .m) ∧ p0.unheld .ext ∧ (1#32).getLsbD 0 = true := ⟨rfl, trivial, by decide⟩
theorem witness_BusCallsAreChecked_noLane : p0.unheld (.int .s) ∧ (0xFFFFFFFE#32).getLsbD 0 = false :=
  ⟨rfl, by decide⟩

/-- A state with the Master's fill in flight. -/
def filling : State := { p0a with fill := { m := some { addr := 0x40, left := 2, data := 0x55AA }, s := none } }

theorem witness_FillInFlightHoldsItsCore_held :
    filling.fill.get .m = some { addr := 0x40, left := 2, data := 0x55AA }
    ∧ Instr.admitted (.poll (.core .m) 0) = true ∧ (Instr.poll (.core .m) 0).agent = .core .m
    ∧ Instr.poll (.core .m) 0 ≠ .fillstep (.core .m) := by decide
theorem witness_FillInFlightHoldsItsCore_other : (Instr.poll (.core .s) 0).agent ≠ .core .m := by decide

theorem witness_AckSeten_CoreState_Dmacfg_Dmard : ∀ c, p0.fill.get c = none := by
  intro c; cases c <;> rfl

theorem witness_PollDeliversVresUnmasked :
    (State.withPair p0 .s .vres true true).fill.get .s = none
    ∧ (State.withPair p0 .s .vres true true).pending .s .vres = true := by decide

/-- Boundary: VINT's level 12 exceeds the mask 11. -/
theorem witness_PollDeliversTheHighestLevel :
    let s := State.withPair (State.withPair p0 .m .vint true true) .m .hint true true
    s.fill.get .m = none ∧ ¬ (CoreId.m = .s ∧ s.pending .s .vres = true) ∧ s.pending .m .vint = true
    ∧ (11#4).toNat < levelOf .vint
    ∧ ∀ x, x ≠ .vres → s.pending .m x = true → levelOf x ≤ levelOf .vint := by
  refine ⟨rfl, by decide, by decide, by decide, fun x => ?_⟩
  cases x <;> decide

/-- Boundary: VINT's level 12 does not exceed the mask 12, and no channel is enabled. -/
theorem witness_PollWithoutDrainChangesNothing_masked :
    let s := State.withPair p0 .m .vint true true
    s.quiet .m 12 ∧ ∀ ch, (s.chan .m ch).enable = false := by
  refine ⟨⟨by decide, fun x => ?_⟩, fun ch => ?_⟩
  · cases x <;> decide
  · cases ch <;> rfl
theorem witness_PollWithoutDrainChangesNothing_oneWord :
    (draining [0x1111] 0x06000000 1).quiet .s 15 ∧ (draining [0x1111] 0x06000000 1).fifo.length < 2 :=
  ⟨draining_quiet _ _ _ _, by decide⟩
/-- The second half-word is the engaged one: it is the first of the framebuffer window. -/
theorem witness_PollWithoutDrainChangesNothing_gated :
    let s := draining [0xAAAA, 0xBBBB] 0x03FFFFFE 1
    s.quiet .s 15 ∧ s.drainsOn .s .ch0 ∧ (s.chan .s .ch0).count ≠ 0#32
    ∧ (s.chan .s .ch0).dst.getLsbD 0 = false
    ∧ decodeAddr (.int .s) ((s.chan .s .ch0).dst + 2#32) s = some (.dram, 0) ∧ s.engagedFb = true :=
  ⟨draining_quiet _ _ _ _, draining_drainsOn _ _ _, by decide, by decide, by decide +kernel, by decide⟩
theorem witness_PollWithoutDrainChangesNothing_palette :
    let s := draining [0xAAAA, 0xBBBB] 0x00004200 1
    decodeAddr (.int .s) (s.chan .s .ch0).dst s = some (.reg .palette, 0) ∧ s.engagedPal = true :=
  ⟨by decide +kernel, by decide⟩

theorem witness_PollDrainsTwoWordsToSdram :
    let s := draining [0x1111, 0x2222] 0x06000000 1
    s.fill.get .s = none ∧ s.quiet .s 15 ∧ s.drainsOn .s .ch0 ∧ s.fifo = [0x1111, 0x2222]
    ∧ (s.chan .s .ch0).count ≠ 0#32 ∧ (s.chan .s .ch0).dst.getLsbD 0 = false
    ∧ decodeAddr (.int .s) (s.chan .s .ch0).dst s = some (.sdram, 0)
    ∧ decodeAddr (.int .s) ((s.chan .s .ch0).dst + 2#32) s = some (.sdram, 2) :=
  ⟨rfl, draining_quiet _ _ _ _, draining_drainsOn _ _ _, rfl, by decide, by decide, by decide +kernel,
    by decide +kernel⟩

/-- What a completed write leaves. -/
def doneOf {α : Type} : Result α → Option α
  | .done a => some a
  | .held _ => none
  | .fault _ => none
  | .refused _ => none

/-- What a faulting write answers. -/
def stopOf {α : Type} : Result α → Option Fault
  | .done _ => none
  | .held _ => none
  | .fault e => some e
  | .refused _ => none

/-- V-D14: both half-words are unmapped. -/
theorem witness_PollDrainMakesTwoInternalWrites :
    let s := draining [0x1111, 0x2222] 0x00004040 1
    let popped := { s with fifo := [], dreq := both false }
    gated .s (s.chan .s .ch0).dst s = false ∧ gated .s ((s.chan .s .ch0).dst + 2#32) s = false
    ∧ (doneOf ((busWrite (.int .s) Lanes.full 0x00004040 0x1111 popped).bind
        (busWrite (.int .s) Lanes.full 0x00004042 0x2222))).isSome = true := by
  decide +kernel

theorem witness_DrainFaults_zeroCount :
    let s := draining [0x1111, 0x2222] 0x06000000 0
    s.quiet .s 15 ∧ s.drainsOn .s .ch0 ∧ s.fifo = [0x1111, 0x2222] ∧ (s.chan .s .ch0).count = 0#32 :=
  ⟨draining_quiet _ _ _ _, draining_drainsOn _ _ _, rfl, rfl⟩
theorem witness_DrainFaults_odd :
    let s := draining [0x1111, 0x2222] 0x06000001 1
    (s.chan .s .ch0).count ≠ 0#32 ∧ (s.chan .s .ch0).dst.getLsbD 0 = true := by decide
/-- The drain's first half-word goes to `DREQ_CTRL`, which a core cannot write; from 0x00004004, unmapped,
the second does. -/
theorem witness_DrainFaults_write :
    let s := draining [0x1111, 0x2222] 0x00004006 1
    let popped := { s with fifo := [], dreq := both false }
    stopOf (busWrite (.int .s) Lanes.full 0x00004006 0x1111 popped)
      = some (.unmodelled (.latch .dreqCtrl) .int .write)
    ∧ stopOf ((busWrite (.int .s) Lanes.full 0x00004004 0x1111 popped).bind
        (busWrite (.int .s) Lanes.full 0x00004006 0x2222))
      = some (.unmodelled (.latch .dreqCtrl) .int .write)
    ∧ gated .s 0x00004004 s = false ∧ gated .s 0x00004006 s = false ∧ gated .s 0x00004008 s = false := by
  decide +kernel

theorem witness_UnmappedAccessIsOpenBus :
    p0.unheld (.int .m) ∧ callOk true false 0x00004F00 ∧ decodeAddr (.int .m) 0x00004F00 p0 = none
    ∧ decodeAddr .ext 0x00A15126 p0 = none := ⟨rfl, by decide, by decide +kernel, by decide +kernel⟩

theorem witness_DecodingTakesTheMostSpecificEntry :
    decodeAddr .ext 0x0000FE p0a = some (.vecRom, 0xFE) ∧ decodeAddr .ext 0x0000FE p0 = some (.cart, 0xFE)
    ∧ decodeAddr .ext 0x000100 p0a = none ∧ decodeAddr .ext 0x01A15100 p0 = some (.reg (.latch .adapterCtrl), 0) := by
  decide +kernel

theorem witness_RamWindowReads :
    callOk true false 0x0603FFFE ∧ decodeAddr (.int .m) 0x0603FFFE p0 = some (.sdram, 0x3FFFE)
    ∧ decodeAddr .ext 0x0085FFFE p0a = some (.dram, 0x1FFFE)
    ∧ decodeAddr (.int .s) 0xC0000FFE { p0 with cacheEn := both true } = some (.cache, 0xFFE) :=
  ⟨by decide, by decide +kernel, by decide +kernel, by decide +kernel⟩

/-- ROM images whose last half-word is at offset 2. -/
def withRoms : State :=
  { p0 with cfg := { p0.cfg with
      rom := { size := 4, cells := [(3, 9)] }
      bootRom := both { size := 4, cells := [(0, 1)] }
      vectorRom := { size := 4, cells := [] } } }

theorem witness_RomWindowAccesses_read :
    decodeAddr (.int .m) 0x00000002 withRoms = some (.boot, 2) ∧ decodeAddr (.int .m) 0x02000002 withRoms = some (.progRom, 2)
    ∧ decodeAddr .ext 0x00000002 withRoms = some (.cart, 2)
    ∧ decodeAddr .ext 0x00000002 (withRoms.setReg .adapterCtrl 1) = some (.vecRom, 2)
    ∧ decodeAddr .ext 0x00880002 (withRoms.setReg .adapterCtrl 1) = some (.romFixed, 2)
    ∧ decodeAddr .ext 0x00900002 (withRoms.setReg .adapterCtrl 1) = some (.romBank, 2)
    ∧ 2 + 1 < withRoms.cfg.rom.size := by decide +kernel
theorem witness_RomWindowAccesses_past :
    decodeAddr .ext 0x00000004 withRoms = some (.cart, 4) ∧ withRoms.cfg.rom.size ≤ 4 + 1 := by decide +kernel

theorem witness_SdramAndCacheWrites :
    callOk false true 0x06000000 ∧ decodeAddr (.int .s) 0x06000000 p0 = some (.sdram, 0)
    ∧ decodeAddr (.int .s) 0xC0000000 { p0 with cacheEn := both true } = some (.cache, 0) :=
  ⟨by decide, by decide +kernel, by decide +kernel⟩

theorem witness_FramebufferWrites :
    decodeAddr .ext 0x00840020 p0a = some (.dram, 0x20)
    ∧ decodeAddr (.int .m) 0x04000000 { p0 with vblank := true } = some (.dram, 0)
    ∧ State.engagedFb { p0 with vblank := true } = false := by decide +kernel
theorem witness_EngagedCoreWritesHold :
    callOk true true 0x04000000 ∧ decodeAddr (.int .s) 0x04000000 p0 = some (.dram, 0) ∧ p0.engagedFb = true
    ∧ decodeAddr (.int .s) 0x000043FE p0 = some (.reg .palette, 0x1FE) ∧ p0.engagedPal = true :=
  ⟨by decide, by decide +kernel, by decide, by decide +kernel, by decide⟩
theorem witness_PaletteAccesses :
    decodeAddr .ext 0x00A153FE p0a = some (.reg .palette, 0x1FE)
    ∧ decodeAddr (.int .m) 0x00004200 { p0 with hblank := true } = some (.reg .palette, 0)
    ∧ State.engagedPal { p0 with hblank := true } = false := by decide +kernel

theorem witness_LatchReads :
    callOk true true 0x00A15110 ∧ decodeAddr .ext 0x00A15110 p0a = some (.reg (.latch .dreqLen), 0)
    ∧ decodeAddr (.int .m) 0x0000410A p0 = some (.reg (.latch .fbCtrl), 0)
    ∧ decodeAddr .ext 0x00A15100 p0 = some (.reg (.latch .adapterCtrl), 0) :=
  ⟨by decide, by decide +kernel, by decide +kernel, by decide +kernel⟩
theorem witness_LatchReads_fillAddr :
    p0.fillAddrDirty = false ∧ decodeAddr (.int .m) 0x00004106 p0 = some (.reg (.latch .fillAddr), 0) := by
  decide +kernel
theorem witness_PlainLatchWrites :
    decodeAddr (.int .s) 0x0000402E p0 = some (.reg (.latch (.comm 7)), 0)
    ∧ decodeAddr (.int .s) 0x0000410A p0 = some (.reg (.latch .fbCtrl), 0)
    ∧ decodeAddr .ext 0x00A15104 p0a = some (.reg (.latch .bankSelect), 0) := by decide +kernel
theorem witness_UnmodelledAccessesFault :
    decodeAddr (.int .m) 0x00004006 p0 = some (.reg (.latch .dreqCtrl), 0)
    ∧ decodeAddr (.int .m) 0x00004012 p0 = some (.reg (.latch .dreqFifo), 0)
    ∧ decodeAddr .ext 0x00A15112 p0a = some (.reg (.latch .dreqFifo), 0) := by decide +kernel

theorem witness_IntMaskWriteSetsTheEnables_IntMaskReadShowsTheEnables :
    callOk true false 0x00004000 ∧ decodeAddr (.int .m) 0x00004000 p0 = some (.reg .intMask, 0)
    ∧ p0.cfg.problem = none := ⟨by decide, by decide +kernel, by decide +kernel⟩
theorem witness_IntClrWriteAcknowledges :
    decodeAddr (.int .s) 0x00004016 p0 = some (.reg (.intClr .vint), 0) ∧ p0.cfg.problem = none := by
  decide +kernel
theorem witness_UnspecifiedReadsAreFree :
    decodeAddr (.int .m) 0x0000401C p0 = some (.reg (.intClr .pwm), 0)
    ∧ decodeAddr .ext 0x00A15134 p0a = some (.reg (.latch .pwmLeft), 0)
    ∧ decodeAddr .ext 0x00A15186 { p0a with fillAddrDirty := true } = some (.reg (.latch .fillAddr), 0) := by
  decide +kernel

theorem witness_DreqCtrlWriteArmsOrDisables :
    callOk true true 0x00A15106 ∧ decodeAddr .ext 0x00A15106 p0a = some (.reg (.latch .dreqCtrl), 0) :=
  ⟨by decide, by decide +kernel⟩
theorem witness_DreqCtrlReadShowsFull :
    decodeAddr (.int .s) 0x00004006 p0 = some (.reg (.latch .dreqCtrl), 0) := by decide +kernel
theorem witness_DreqLenWriteRestarts_core :
    callOk true true 0x00004010 ∧ decodeAddr (.int .s) 0x00004010 p0 = some (.reg (.latch .dreqLen), 0)
    ∧ decodeAddr (.int .m) 0x00004006 p0 = some (.reg (.latch .dreqCtrl), 0) :=
  ⟨by decide, by decide +kernel, by decide +kernel⟩
theorem witness_DreqLenWriteRestarts :
    decodeAddr .ext 0x00A15110 (p0a.setReg .dreqCtrl 4) = some (.reg (.latch .dreqLen), 0)
    ∧ (p0a.setReg .dreqCtrl 4).dreqActive = true := by decide +kernel
theorem witness_DreqFifoWriteQueuesOrDrops :
    decodeAddr .ext 0x00A15112 (p0a.setReg .dreqCtrl 4) = some (.reg (.latch .dreqFifo), 0)
    ∧ (p0a.setReg .dreqCtrl 4).dreqActive = true
    ∧ (p0a.setReg .dreqCtrl 4).fifo.length < p0a.cfg.dreqDepth := by decide +kernel
theorem witness_PwmSampleWritesPushOrDrop :
    decodeAddr .ext 0x00A15134 p0a = some (.reg (.latch .pwmLeft), 0)
    ∧ decodeAddr (.int .m) 0x00004036 p0 = some (.reg (.latch .pwmRight), 0)
    ∧ decodeAddr (.int .m) 0x00004038 p0 = some (.reg (.latch .pwmMono), 0) := by decide +kernel

/-- V-F19's configuration: a bank of 0x10000 bytes. -/
def smallBank (fillAddr : Half) : State :=
  ({ p0a with cfg := { p0.cfg with
      fbBankBytes := 0x10000
      addrMap := defaultIntMap 0x10000 0x40000 ++ defaultExtMap 0x10000 0x100000 } }.setReg .fillAddr
    fillAddr).setReg .fillLen 0x00FF

theorem witness_FillRangeIsChecked_HostFillWritesTheRun :
    (smallBank 0xFE00).cfg.problem = none
    ∧ decodeAddr .ext 0x00A15188 (smallBank 0xFE00) = some (.reg (.latch .fillData), 0)
    ∧ ((smallBank 0xFE00).reg .fillAddr).toNat + 2 * ((smallBank 0xFE00).cfg.fields.fillLen.read
        ((smallBank 0xFE00).reg .fillLen) + 1) = (smallBank 0xFE00).cfg.fbBankBytes := by decide +kernel
theorem witness_FillRangeIsChecked_out :
    decodeAddr .ext 0x00A15188 (smallBank 0xFE02) = some (.reg (.latch .fillData), 0)
    ∧ (smallBank 0xFE02).cfg.fbBankBytes < ((smallBank 0xFE02).reg .fillAddr).toNat
        + 2 * ((smallBank 0xFE02).cfg.fields.fillLen.read ((smallBank 0xFE02).reg .fillLen) + 1)
    ∧ decodeAddr .ext 0x00A15186 (smallBank 0xFE02) = some (.reg (.latch .fillAddr), 0) := by decide +kernel
theorem witness_FillRangeIsChecked_odd :
    ((p0.setReg .fillAddr 0x0101).reg .fillAddr).toNat % 2 = 1 := by decide
theorem witness_CoreFillStartsInFlight :
    p0.fill.get .m = none ∧ decodeAddr (.int .m) 0x00004108 p0 = some (.reg (.latch .fillData), 0)
    ∧ (p0.reg .fillAddr).toNat % 2 = 0
    ∧ (p0.reg .fillAddr).toNat + 2 * (p0.cfg.fields.fillLen.read (p0.reg .fillLen) + 1) ≤ p0.cfg.fbBankBytes := by
  decide +kernel
theorem witness_FillstepWritesOneHalfWord :
    p0.fill.get .m = none ∧ filling.engagedFb = true ∧ State.engagedFb { filling with vblank := true } = false := by
  decide

theorem witness_PwmclkCountsAndTicks :
    p0.pwmClocks = 0 ∧ (p0.setReg .pwmCycle 2).pwmClocks = 2
    ∧ State.divCount { p0.setReg .pwmCycle 2 with divCount := 1 } + 1 = 2 ∧ p0.pwmPeriod = 16
    ∧ (p0.setReg .pwmCtrl 0x0100).pwmPeriod = 1 := by decide

/-- The sequence of states of a run of divider clocks. -/
def clockRun : Nat → State
  | 0 => (p0.setReg .pwmCycle 2).setReg .pwmCtrl 0x0300
  | k + 1 => (pwmClock (clockRun k)).done .env .done

theorem witness_PwmInterruptOncePerPeriod :
    1 ≤ (clockRun 0).pwmClocks ∧ 1 ≤ (clockRun 0).pwmPeriod ∧ (clockRun 0).divCount = 0
    ∧ (clockRun 0).periodCount = 0 ∧ ∀ k, exec (.pwmclk .env) (clockRun k) = .next (clockRun (k + 1)) :=
  ⟨by decide, by decide, rfl, rfl, fun _ => rfl⟩

theorem witness_EveryStepKeepsTheInvariant : State.reset.queuesBounded ∧ State.reset.memoriesWf = true
    ∧ nextOf (step (State.reset.withFetchWord 64 0x40C0000000000000)) ≠ none := by
  refine ⟨⟨by decide, fun side => ?_⟩, by decide, by decide +kernel⟩
  cases side <;> decide
theorem witness_EngagementExcludesTheCores :
    nextOf (exec (.poll (.core .s) 15) (draining [0xAAAA, 0xBBBB] 0x04000000 1)) ≠ none
    ∧ (draining [0xAAAA, 0xBBBB] 0x04000000 1).engagedFb = true := by decide +kernel
theorem witness_AgentsLeaveOtherCoresAlone :
    nextOf (exec (.ack (.core .m) .vint) p0) ≠ none
    ∧ nextOf (exec (.wrx .host true true 0x00A15100 1) p0) ≠ none := by decide +kernel
theorem witness_FifoChangesOnlyAtItsEnds_OnlyPollDeliversInterrupts :
    nextOf (exec (.poll (.core .s) 15) (draining [0x1111, 0x2222] 0x06000000 1)) ≠ none
    ∧ nextOf (exec (.poll (.core .m) 0) (State.withPair p0 .m .pwm true true)) ≠ none := by decide +kernel
theorem witness_FifoChangesOnlyAtItsEnds_host :
    nextOf (exec (.wrx .host true true 0x00A15112 7) (p0a.setReg .dreqCtrl 4)) ≠ none
    ∧ (p0a.setReg .dreqCtrl 4).dreqActive = true
    ∧ nextOf (exec (.wrx .host true true 0x00A15110 7) { p0a with fifo := [0x1111] }) ≠ none := by
  decide +kernel
theorem witness_SerializeRoundTrips : p0a.cfg.serialFormat = State.reset.cfg.serialFormat := by decide
theorem witness_NoStepWritesTheConfiguration :
    nextOf (step (State.reset.withFetchWord 64 0x50C1000000000000)) ≠ none := by decide +kernel

end Sys2Proof.Tests
end

section
/-! PROOF. A step is the decoded transaction of the agent whose turn it is (00_scope R15, R18; 20_memory R96,
R97). -/

namespace Sys2Proof.Machine

/-- A turn that the run gives is the next one of the list. -/
theorem takeTurn_cons {s : State} {ag : Agent} {rest : List Agent} (h : s.turns = ag :: rest) :
    takeTurn s = (ag, { s with turns := rest }) := by
  simp only [takeTurn, h]

/-- With no turn given, the free value names the agent. -/
theorem takeTurn_nil {s : State} (h : s.turns = []) :
    takeTurn s = (Config.freeTurn s.draws, { s with draws := s.draws + 1 }) := by
  simp only [takeTurn, h]

@[simp] theorem takeTurn_script (s : State) : (takeTurn s).2.script = s.script := by
  unfold takeTurn
  split <;> rfl

@[simp] theorem takeTurn_cfg (s : State) : (takeTurn s).2.cfg = s.cfg := by
  unfold takeTurn
  split <;> rfl

theorem script_ne_nil_of_fetch {s : State} {ag : Agent} {w : TxnWord} (h : s.fetch ag = some w) :
    s.script ≠ [] :=
  List.ne_nil_of_mem (List.mem_of_find?_eq_some h)

theorem runWord_ok {w : TxnWord} {i : Instr} {s : State} (h : decode s.cfg.dmaCountBits w = .ok i) :
    runWord w s = exec i s := by
  simp only [runWord, h]

theorem runAgent_fetched {ag : Agent} {w : TxnWord} {s : State} (h : s.fetch ag = some w) :
    runAgent ag s = runWord w s := by
  simp only [runAgent, h]

/-- The step whose agent, given or free, has a word that decodes. -/
theorem step_of_fetch_decode {s : State} {w : TxnWord} {i : Instr} (hm : s.unmarked)
    (hc : s.cfg.problem = none) (hf : s.fetch (takeTurn s).1 = some w)
    (hd : decode s.cfg.dmaCountBits w = .ok i) : step s = exec i (takeTurn s).2 := by
  have hf' : (takeTurn s).2.fetch (takeTurn s).1 = some w := by
    rw [State.fetch, takeTurn_script]
    exact hf
  calc step s = runAgent (takeTurn s).1 (takeTurn s).2 := step_run s hm hc (script_ne_nil_of_fetch hf)
    _ = runWord w (takeTurn s).2 := runAgent_fetched hf'
    _ = exec i (takeTurn s).2 := runWord_ok (by rw [takeTurn_cfg, hd])

/-- Settles O5: both clauses are `step_of_fetch_decode`, with the turn taken from the list or from the free
value. -/
theorem stepRunsTheDecodedTransaction : Obligations.StepRunsTheDecodedTransaction := by
  intro s w i hm hc hd
  constructor
  · intro ag rest ht hf
    have turn := takeTurn_cons ht
    rw [step_of_fetch_decode hm hc (by rw [turn]; exact hf) hd, turn]
  · intro ht hf
    have turn := takeTurn_nil ht
    rw [step_of_fetch_decode hm hc (by rw [turn]; exact hf) hd, turn]

end Sys2Proof.Machine
end

section
/-! PROOF. What a step or a transaction that answers a next state did, and what that says of the
configuration and of the log (10_state R60, R63; 40_interrupt_router R166, R168). -/

namespace Sys2Proof.Machine

variable {s t u : State} {i : Instr} {r : Reply}

/-! ## The step -/

theorem stopped_eq_none (h : s.stopped = none) : s.unmarked ∧ s.cfg.problem = none := by
  unfold State.stopped at h
  split at h
  · simp at h
  · split at h
    · simp at h
    · split at h
      · simp at h
      · exact ⟨⟨‹_›, ‹_›⟩, ‹_›⟩

/-- A stopped run has no next state (60_exceptions R337, R338). -/
theorem stopped_ne_next (s t : State) : s.stopped ≠ some (.next t) := by
  unfold State.stopped
  split
  · simp
  · split
    · simp
    · split <;> simp

/-- Taking a turn changes the model's own fields only. -/
theorem takeTurn_eq (s : State) :
    (takeTurn s).2 = { s with turns := (takeTurn s).2.turns, draws := (takeTurn s).2.draws } := by
  unfold takeTurn
  split <;> rfl

theorem runWord_next {w : TxnWord} (h : runWord w s = .next t) :
    ∃ i, decode s.cfg.dmaCountBits w = .ok i ∧ exec i s = .next t := by
  unfold runWord at h
  split at h
  · simp at h
  · exact ⟨_, ‹_›, h⟩

theorem runAgent_next {ag : Agent} (h : runAgent ag s = .next t) :
    t = s ∨ ∃ w, runWord w s = .next t := by
  unfold runAgent at h
  split at h
  · exact .inl (by simpa using h.symm)
  · exact .inr ⟨_, h⟩

/-- A step that answers a next state left the block as it is, or used a turn and found no transaction, or
ran a decoded one. -/
theorem step_next (h : step s = .next t) :
    t = s ∨ s.cfg.problem = none ∧ (t = (takeTurn s).2
      ∨ ∃ w i, decode s.cfg.dmaCountBits w = .ok i ∧ exec i (takeTurn s).2 = .next t) := by
  unfold step at h
  split at h
  · rename_i o hstop
    rw [h] at hstop
    exact absurd hstop (stopped_ne_next s t)
  · rename_i hstop
    split at h
    · exact .inl (by simpa using h.symm)
    · refine .inr ⟨(stopped_eq_none hstop).2, ?_⟩
      obtain h | ⟨w, h⟩ := runAgent_next h
      · exact .inl h
      · obtain ⟨i, hd, hx⟩ := runWord_next h
        rw [takeTurn_cfg] at hd
        exact .inr ⟨w, i, hd, hx⟩

/-! ## The configuration -/

theorem vblankLine_eq (line : Bool) (s : State) :
    vblankLine line s = { s with ib := (vblankLine line s).ib, vblank := line } := by
  unfold vblankLine
  split
  · rw [raiseSource_eq]
  · rfl

theorem hblankLine_eq (line : Bool) (s : State) :
    hblankLine line s = { s with ib := (hblankLine line s).ib, hblank := line } := by
  unfold hblankLine
  split
  · rw [raiseSource_eq]
  · rfl

@[simp] theorem resetEffect_cfg (kind : ResetKind) (s : State) : (resetEffect kind s).cfg = s.cfg := by
  cases kind <;> rfl

theorem Wrote.cfg {p : Port} {ln : Lanes} {a : Addr} {v : Half} (h : Wrote p ln a v s t) : t.cfg = s.cfg := by
  rw [h.frame]

theorem drain_cfg {c : CoreId} (h : drain c s = .done (r, t)) : t.cfg = s.cfg := by
  obtain ⟨_, rfl⟩ | ⟨ch, hi, lo, rest, t1, t2, _, _, _, _, _, _, _, hw1, hw2, rfl⟩ := drain_done h
  · rfl
  · exact hw2.cfg.trans hw1.cfg

/-- No transaction writes the configuration (10_state R60). -/
theorem Ran.cfg (h : Ran i s r t) : t.cfg = s.cfg := by
  cases h with
  | read p u l a prior v s t hf ha hb =>
    obtain ⟨k, e, rfl, _⟩ := busRead_done hb
    rfl
  | write p u l a v s t hf ha hw => exact hw.cfg
  | raise src s => rw [raiseSource_eq]
  | interrupt c m src s hp => rw [deliver_eq]
  | drain c m r s t hq hd => exact drain_cfg hd
  | vblank line s => rw [vblankLine_eq]
  | hblank line s => rw [hblankLine_eq]
  | pwmclk s => rw [pwmClock_frame]
  | reset kind s => exact resetEffect_cfg kind s
  | _ => rfl

theorem exec_cfg (h : exec i s = .next t) : t.cfg = s.cfg := by
  obtain ⟨hd, rfl⟩ | ⟨r, u, hr, rfl⟩ := exec_next h
  · rfl
  · exact hr.cfg

/-- Settles O60: a step leaves the state, its turn used, or the effect of a transaction, and each keeps the
configuration. -/
theorem noStepWritesTheConfiguration : Obligations.NoStepWritesTheConfiguration := by
  intro s t h
  obtain rfl | ⟨_, rfl | ⟨w, i, _, hx⟩⟩ := step_next h
  · rfl
  · exact takeTurn_cfg s
  · exact (exec_cfg hx).trans (takeTurn_cfg s)

/-! ## The log -/

/-- The log of `t` is that of `s` with events after it, none of them an interrupt. -/
def LogsQuietly (s t : State) : Prop :=
  ∃ es, t.log = s.log ++ es ∧ es.filter Event.isException = []

theorem LogsQuietly.of_log_eq (h : t.log = s.log) : LogsQuietly s t := ⟨[], by simpa using h, rfl⟩

theorem LogsQuietly.of_event {e : Event} (h : t.log = s.log ++ [e]) (he : e.isException = false) :
    LogsQuietly s t := ⟨[e], h, by simp [he]⟩

theorem LogsQuietly.trans (h : LogsQuietly s t) (h' : LogsQuietly t u) : LogsQuietly s u := by
  obtain ⟨es, hes, hq⟩ := h
  obtain ⟨fs, hfs, hq'⟩ := h'
  exact ⟨es ++ fs, by rw [hfs, hes, List.append_assoc], by rw [List.filter_append, hq, hq']; rfl⟩

theorem pushSample_logsQuietly (p : Port) (a : Addr) (side : Side) (w : Half) (s : State) :
    LogsQuietly s (pushSample p a side w s) := by
  unfold pushSample
  split
  · exact .of_log_eq rfl
  · exact .of_event rfl rfl

@[simp] theorem dropActiveAtZero_log (s : State) : (dropActiveAtZero s).log = s.log := by
  unfold dropActiveAtZero
  split <;> rfl

theorem writeDreqFifo_logsQuietly (p : Port) (a : Addr) (w : Half) (s : State) :
    LogsQuietly s (writeDreqFifo p a w s) := by
  unfold writeDreqFifo
  simp only
  split
  · exact .of_log_eq (by simp)
  · exact .of_event rfl rfl

theorem writeDreqCtrl_log {ln : Lanes} {v : Half} (h : writeDreqCtrl ln v s = .done t) : t.log = s.log := by
  unfold writeDreqCtrl at h
  simp only at h
  split at h
  · split at h
    · split at h
      · cases h; rfl
      · split at h
        · simp at h
        · cases h; rfl
    · cases h; rfl
  · cases h; rfl

theorem writeDreqLen_log {w : Half} (h : writeDreqLen w s = .done t) : t.log = s.log := by
  unfold writeDreqLen at h
  split at h
  · simp at h
  · cases h; rfl

theorem writeFillData_log {p : Port} {w : Half} (h : writeFillData p w s = .done t) : t.log = s.log := by
  unfold writeFillData at h
  simp only at h
  split at h
  · simp at h
  · cases p <;> (cases h; rfl)

theorem writeLatch_logsQuietly {p : Port} {a : Addr} {l : Latch} {ln : Lanes} {v : Half}
    (h : writeLatch p a l ln v s = .done t) : LogsQuietly s t := by
  cases l with
  | dreqCtrl => exact .of_log_eq (writeDreqCtrl_log h)
  | dreqLen => exact .of_log_eq (writeDreqLen_log h)
  | fillData => exact .of_log_eq (writeFillData_log h)
  | dreqFifo => cases h; exact writeDreqFifo_logsQuietly ..
  | pwmLeft => cases h; exact pushSample_logsQuietly p a .left _ (s.setReg .pwmLeft _)
  | pwmRight => cases h; exact pushSample_logsQuietly p a .right _ (s.setReg .pwmRight _)
  | pwmMono =>
    cases h
    exact (pushSample_logsQuietly p a .left _ (s.setReg .pwmMono _)).trans (pushSample_logsQuietly ..)
  | _ => cases h; exact .of_log_eq rfl

theorem Wrote.logsQuietly {p : Port} {ln : Lanes} {a : Addr} {v : Half} (h : Wrote p ln a v s t) :
    LogsQuietly s t := by
  cases h with
  | unmapped => exact .of_event rfl rfl
  | latch l off t hd hv hl => exact writeLatch_logsQuietly hl
  | intMask c hp => exact .of_log_eq (by rw [writeIntMask_eq])
  | _ => exact .of_log_eq rfl

theorem drain_logsQuietly {c : CoreId} (h : drain c s = .done (r, t)) : LogsQuietly s t := by
  obtain ⟨_, rfl⟩ | ⟨ch, hi, lo, rest, t1, t2, _, _, _, _, _, _, _, hw1, hw2, rfl⟩ := drain_done h
  · exact .of_log_eq rfl
  · exact hw1.logsQuietly.trans hw2.logsQuietly

/-- A transaction but a power-on logs no interrupt, or is the poll that delivers one
(40_interrupt_router R166, R168). -/
theorem Ran.log (h : Ran i s r t) (hi : i ≠ .reset .env .power) :
    LogsQuietly s t
    ∨ ∃ c m x, i = .poll (.core c) m ∧ t.log = s.log ++ [.exception c x (vectorOf x)] := by
  cases h with
  | interrupt c m src s hp => exact .inr ⟨c, m, src, rfl, by rw [deliver_eq]⟩
  | read p u l a prior v s t hf ha hb =>
    obtain ⟨k, e, rfl, he⟩ := busRead_done hb
    exact .inl (.of_event rfl he)
  | write p u l a v s t hf ha hw => exact .inl hw.logsQuietly
  | raise src s => exact .inl (.of_log_eq (by rw [raiseSource_eq]))
  | drain c m r s t hq hd => exact .inl (drain_logsQuietly hd)
  | dmard c ch f s => exact .inl (.of_event rfl rfl)
  | serialize s => exact .inl (.of_event rfl rfl)
  | vblank line s => exact .inl (.of_log_eq (by rw [vblankLine_eq]))
  | hblank line s => exact .inl (.of_log_eq (by rw [hblankLine_eq]))
  | pwmclk s => exact .inl (.of_log_eq (by rw [pwmClock_frame]))
  | reset kind s =>
    cases kind with
    | power => exact absurd rfl hi
    | reset => exact .inl (.of_log_eq rfl)
  | _ => exact .inl (.of_log_eq rfl)

/-- Settles O59: a transaction that holds logs nothing, and `Ran.log` says what one that runs logs. -/
theorem onlyPollDeliversInterrupts : Obligations.OnlyPollDeliversInterrupts := by
  intro i s t h hi
  obtain ⟨hd, rfl⟩ | ⟨r, u, hr, rfl⟩ := exec_next h
  · exact ⟨[], by simp⟩
  · obtain ⟨es, hlog, hq⟩ | ⟨c, m, x, rfl, hlog⟩ := hr.log hi
    · exact ⟨es, hlog, by simp [hq], fun hne => absurd hq hne⟩
    · exact ⟨[.exception c x (vectorOf x)], hlog, Nat.le_refl 1, fun _ => ⟨c, m, x, rfl, rfl⟩⟩

end Sys2Proof.Machine
end

section
/-! PROOF. The invariant holds after reset and every step keeps it (10_state R34, R40, R51, R55, R70;
42_dreq_bridge R240, R245; 43_framebuffer_arbiter R284, R286). Each update of the state has one lemma that
says when it keeps the invariant; `Wrote.inv` and `Ran.inv` cite these. -/

namespace Sys2Proof.Machine

variable {s t : State} {i : Instr} {r : Reply} {w n : Nat}

/-! ## The state after reset -/

theorem default_problem_none : Config.default.problem = none := by decide +kernel

theorem reset_reg (l : Latch) : State.reset.reg l = 0#16 := by simp [State.reg, State.reset]

/-- Settles O52: every field of `State.reset` is written out, and the flags are bits of cleared latches. -/
theorem resetStateIsAfterPowerOn : Obligations.ResetStateIsAfterPowerOn := by
  refine ⟨fun c x => ?_, reset_reg, fun c ch => ?_, rfl, rfl, rfl, fun side => ?_, rfl, rfl, fun c => ?_,
    rfl, rfl, rfl, ?_, ?_, ?_, ?_, ⟨rfl, rfl⟩, default_problem_none⟩
  · cases c <;> cases x <;> rfl
  · cases c <;> cases ch <;> rfl
  · cases side <;> exact ⟨rfl, rfl⟩
  · cases c <;> exact ⟨rfl, rfl, rfl, rfl⟩
  · simp [State.aden, reset_reg]
  · simp [State.fm, reset_reg]
  · simp [State.sel, reset_reg]
  · simp [State.dreqActive, reset_reg]

/-! ## Memories -/

/-- The memory is canonical and lists only addresses of an array of `n` cells. -/
def Mem.Fits (n : Nat) (m : Mem w) : Prop := Mem.wf m = true ∧ Mem.below n m = true

theorem Mem.Fits.set {m : Mem w} {a : Nat} (h : Mem.Fits n m) (ha : a < n) (v : BitVec w) :
    Mem.Fits n (Mem.set m a v) :=
  ⟨Mem.wf_set m a v h.1, Mem.below_set n m a v ha h.2⟩

theorem Mem.Fits.memWrite {m : Memory} {a : Nat} (h : Mem.Fits n m) (ha : a + 1 < n) (ln : Lanes) (v : Half) :
    Mem.Fits n (memWrite m a ln v) :=
  ⟨memWrite_wf m a ln v h.1, memWrite_below n m a ln v ha h.2⟩

theorem Mem.Fits.fillRun {m : Memory} {a k : Nat} (h : Mem.Fits n m) (ha : a + 2 * k ≤ n) (v : Half) :
    Mem.Fits n (fillRun m a v k) :=
  ⟨fillRun_wf v k m a h.1, fillRun_below n v k m a ha h.2⟩

theorem Mem.fits_ofCells (n : Nat) (cells : Mem w) : Mem.Fits n (Mem.ofCells n cells) :=
  Mem.ofCells_sound n cells

/-- Every memory fits its array: the two memory clauses of `State.Inv`, per memory. -/
structure State.MemoriesFit (s : State) : Prop where
  dram     : ∀ b, Mem.Fits s.cfg.fbBankBytes (s.dram.get b)
  palette  : Mem.Fits 256 s.palette
  cacheRam : ∀ c, Mem.Fits 4096 (s.cacheRam.get c)
  sdram    : Mem.Fits s.cfg.sdramBytes s.sdram

theorem State.memoriesFit_iff : s.MemoriesFit ↔ s.memoriesWf = true ∧ s.memoriesSized = true := by
  simp only [State.memoriesWf, State.memoriesSized, Bool.and_eq_true]
  constructor
  · intro h
    obtain ⟨⟨hw0, hb0⟩, ⟨hw1, hb1⟩⟩ := And.intro (h.dram .b0) (h.dram .b1)
    obtain ⟨⟨hwm, hbm⟩, ⟨hws, hbs⟩⟩ := And.intro (h.cacheRam .m) (h.cacheRam .s)
    exact ⟨⟨⟨⟨⟨⟨hw0, hw1⟩, h.palette.1⟩, hwm⟩, hws⟩, h.sdram.1⟩,
      ⟨⟨⟨⟨⟨hb0, hb1⟩, h.palette.2⟩, hbm⟩, hbs⟩, h.sdram.2⟩⟩
  · rintro ⟨⟨⟨⟨⟨⟨hw0, hw1⟩, hwp⟩, hwm⟩, hws⟩, hwr⟩, ⟨⟨⟨⟨⟨hb0, hb1⟩, hbp⟩, hbm⟩, hbs⟩, hbr⟩⟩
    refine ⟨fun b => ?_, ⟨hwp, hbp⟩, fun c => ?_, ⟨hwr, hbr⟩⟩
    · cases b with
      | b0 => exact ⟨hw0, hb0⟩
      | b1 => exact ⟨hw1, hb1⟩
    · cases c with
      | m => exact ⟨hwm, hbm⟩
      | s => exact ⟨hws, hbs⟩

theorem State.Inv.memoriesFit (h : s.Inv) : s.MemoriesFit :=
  State.memoriesFit_iff.mpr ⟨h.canonical, h.sized⟩

theorem State.Inv.of_memoriesFit (hq : s.queuesBounded) (hw : s.widthsKept) (hd : s.dreqSound)
    (hf : s.fillsInBank) (hm : s.MemoriesFit) : s.Inv :=
  ⟨hq, hw, hd, hf, (State.memoriesFit_iff.mp hm).1, (State.memoriesFit_iff.mp hm).2⟩

/-- The invariant of a state whose memories fit and whose other fields are cleared (10_state R70). -/
theorem inv_of_cleared (hfifo : s.fifo = []) (hpf : s.pwmFifo = { left := [], right := [] })
    (hpo : s.pwmOut = { left := 0#16, right := 0#16 })
    (hdma : s.dma = both { c0 := DmaChannel.clear, c1 := DmaChannel.clear })
    (hreg : s.reg .dreqCtrl = 0#16) (hfill : s.fill = both none) (hm : s.MemoriesFit) : s.Inv := by
  refine .of_memoriesFit ⟨by simp [hfifo], fun side => ?_⟩ ⟨fun c ch => ?_, fun side => ?_, fun side => ?_⟩
    ⟨?_, ?_⟩ (fun c f hc => ?_) hm
  · cases side <;> simp [hpf, PerSide.get]
  · cases ch <;> simp [State.chan, hdma, PerChannel.get, DmaChannel.clear]
  · cases side <;> simp [hpo, PerSide.get]
  · cases side <;> simp [hpf, PerSide.get]
  · simp [State.dreqActive, hreg]
  · simp [hreg]
  · simp [hfill] at hc

/-- Settles O54: after reset the memories list nothing and every other field is cleared. -/
theorem invariantHoldsAfterReset : Obligations.InvariantHoldsAfterReset :=
  inv_of_cleared rfl rfl rfl rfl (reset_reg _) rfl
    ⟨fun b => by cases b <;> exact ⟨rfl, rfl⟩, ⟨rfl, rfl⟩, fun c => by cases c <;> exact ⟨rfl, rfl⟩, ⟨rfl, rfl⟩⟩

/-! ## Updates that keep the invariant -/

/-- The invariant reads neither the router and its inputs, the counters and flags, the log and the marks, nor
the model's own fields. -/
theorem State.Inv.of_eq (h : s.Inv) (ht : t = { s with
      ib := t.ib, dreq := t.dreq, fillAddrDirty := t.fillAddrDirty, vblank := t.vblank, hblank := t.hblank
      divCount := t.divCount, periodCount := t.periodCount, bootMapped := t.bootMapped, cacheEn := t.cacheEn
      log := t.log, fault := t.fault, refused := t.refused, script := t.script, turns := t.turns
      reply := t.reply, draws := t.draws }) : t.Inv := by
  rw [ht]
  exact ⟨h.queues, h.widths, h.dreq, h.fills, h.canonical, h.sized⟩

theorem State.Inv.setDram {m : Memory} (h : s.Inv) (b : Bank) (hm : Mem.Fits s.cfg.fbBankBytes m) :
    (s.setDram b m).Inv := by
  refine .of_memoriesFit h.queues h.widths h.dreq h.fills { h.memoriesFit with dram := fun d => ?_ }
  simp only [setDram_dram, setDram_cfg, PerBank.get_set]
  split
  · exact hm
  · exact h.memoriesFit.dram d

theorem State.Inv.setColor (h : s.Inv) {k : Nat} (hk : k < 256) (v : Color) : (s.setColor k v).Inv :=
  .of_memoriesFit h.queues h.widths h.dreq h.fills
    { h.memoriesFit with palette := h.memoriesFit.palette.set hk v }

theorem State.Inv.setCacheRam {m : Memory} (h : s.Inv) (c : CoreId) (hm : Mem.Fits 4096 m) :
    (s.setCacheRam c m).Inv := by
  refine .of_memoriesFit h.queues h.widths h.dreq h.fills { h.memoriesFit with cacheRam := fun d => ?_ }
  simp only [setCacheRam_cacheRam, PerCore.get_set]
  split
  · exact hm
  · exact h.memoriesFit.cacheRam d

theorem State.Inv.setSdram {m : Memory} (h : s.Inv) (hm : Mem.Fits s.cfg.sdramBytes m) :
    State.Inv { s with sdram := m } :=
  .of_memoriesFit h.queues h.widths h.dreq h.fills { h.memoriesFit with sdram := hm }

theorem State.Inv.setFill {f : Option Fill} (h : s.Inv) (c : CoreId)
    (hf : ∀ g, f = some g → g.inBank s.cfg.fbBankBytes) : (s.setFill c f).Inv := by
  refine ⟨h.queues, h.widths, h.dreq, fun d g hg => ?_, h.canonical, h.sized⟩
  simp only [setFill_fill, PerCore.get_set] at hg
  split at hg
  · exact hf g hg
  · exact h.fills d g hg

theorem State.Inv.setChan {k : DmaChannel} (h : s.Inv) (c : CoreId) (ch : Channel)
    (hk : k.count.toNat < 2 ^ s.cfg.dmaCountBits) : (s.setChan c ch k).Inv := by
  obtain ⟨hcount, hout, hsamples⟩ := h.widths
  refine ⟨h.queues, ⟨fun d e => ?_, hout, hsamples⟩, h.dreq, h.fills, h.canonical, h.sized⟩
  rw [setChan_chan]
  split
  · exact hk
  · exact hcount d e

theorem State.Inv.setFifo {q : List Half} (h : s.Inv) (hq : q.length ≤ s.cfg.dreqDepth) :
    (setFifo q s).Inv :=
  ⟨⟨hq, h.queues.2⟩, h.widths, h.dreq, h.fills, h.canonical, h.sized⟩

theorem State.Inv.setRemaining {n : Half} (h : s.Inv) (hn : s.dreqActive = true → n ≠ 0#16) :
    State.Inv { s with remaining := n } :=
  ⟨h.queues, h.widths, ⟨hn, h.dreq.2⟩, h.fills, h.canonical, h.sized⟩

/-- A latch write keeps the invariant if a new `DREQ_CTRL` is sound. -/
theorem State.Inv.setDreqCtrl {v : Half} (h : s.Inv)
    (ha : v.getLsbD s.cfg.fields.dreqActive = true → s.remaining ≠ 0#16)
    (hv : v.getLsbD s.cfg.fields.dreqFull = false) : (s.setReg .dreqCtrl v).Inv := by
  refine ⟨h.queues, h.widths, ⟨?_, ?_⟩, h.fills, h.canonical, h.sized⟩
  · simpa [State.dreqActive] using ha
  · simpa using hv

theorem State.Inv.setReg {l : Latch} (h : s.Inv) (hl : l ≠ .dreqCtrl) (v : Half) : (s.setReg l v).Inv := by
  have hr : (s.setReg l v).reg .dreqCtrl = s.reg .dreqCtrl := by simp [Ne.symm hl]
  refine ⟨h.queues, h.widths, ⟨?_, ?_⟩, h.fills, h.canonical, h.sized⟩
  · simpa [State.dreqActive, hr] using h.dreq.1
  · simpa [hr] using h.dreq.2

theorem State.Inv.setPwmFifo {q : List Half} (h : s.Inv) (side : Side) (hlen : q.length ≤ s.cfg.pwmDepth)
    (hq : ∀ y ∈ q, y.toNat < 2 ^ s.cfg.pwmSampleBits) :
    State.Inv { s with pwmFifo := s.pwmFifo.set side q } := by
  obtain ⟨hcount, hout, hsamples⟩ := h.widths
  refine ⟨⟨h.queues.1, fun d => ?_⟩, ⟨hcount, hout, fun d => ?_⟩, h.dreq, h.fills, h.canonical, h.sized⟩ <;>
    simp only [PerSide.get_set] <;> split
  · exact hlen
  · exact h.queues.2 d
  · exact hq
  · exact hsamples d

theorem State.Inv.setPwmOut {x : Half} (h : s.Inv) (side : Side) (hx : x.toNat < 2 ^ s.cfg.pwmSampleBits) :
    State.Inv { s with pwmOut := s.pwmOut.set side x } := by
  obtain ⟨hcount, hout, hsamples⟩ := h.widths
  refine ⟨h.queues, ⟨hcount, fun d => ?_, hsamples⟩, h.dreq, h.fills, h.canonical, h.sized⟩
  simp only [PerSide.get_set]
  split
  · exact hx
  · exact hout d

end Sys2Proof.Machine
end

section
/-! PROOF. Every bus write, transaction and step keeps the invariant (42_dreq_bridge R240, R243, R245, R248;
43_framebuffer_arbiter R282 to R286; 44_pwm R302, R306). -/

namespace Sys2Proof.Machine

variable {s t : State} {i : Instr} {r : Reply}

/-! ## Latch writes -/

/-- Clearing one bit sets no other, and leaves that one clear. -/
theorem putBit_false_getLsbD (v : Half) (p q : Nat) :
    (putBit v p false).getLsbD q = (decide (q ≠ p) && v.getLsbD q) := by
  by_cases hq : q < 16
  · rw [putBit_getLsbD v p q false hq]
    by_cases h : q = p <;> simp [h]
  · rw [BitVec.getLsbD_of_ge _ _ (by omega), BitVec.getLsbD_of_ge _ _ (by omega), Bool.and_false]

/-- A set bit of a merge is one of the lane it comes from. -/
theorem of_merge16_getLsbD {old new : Half} {ln : Lanes} {p : Nat} (h : (merge16 old new ln).getLsbD p = true) :
    (if ln.covers p then new.getLsbD p else old.getLsbD p) = true := by
  rwa [merge16_getLsbD _ _ _ _ (BitVec.lt_of_getLsbD h)] at h

/-- Storing a `DREQ_CTRL` value whose `active` bit is backed by words left. -/
theorem State.Inv.storeDreqCtrl {w : Half} (h : s.Inv)
    (ha : w.getLsbD s.cfg.fields.dreqActive = true → s.remaining ≠ 0#16) : (storeDreqCtrl w s).Inv := by
  refine h.setDreqCtrl (fun hb => ?_) ?_
  · rw [putBit_false_getLsbD, Bool.and_eq_true] at hb
    exact ha hb.2
  · simp [putBit_false_getLsbD]

/-- Arming loads a length that is not 0, disabling clears `active`, and any other write leaves it
(42_dreq_bridge R240). -/
theorem writeDreqCtrl_inv {ln : Lanes} {v : Half} (h : s.Inv) (hw : writeDreqCtrl ln v s = .done t) : t.Inv := by
  unfold writeDreqCtrl at hw
  simp only at hw
  split at hw
  · rename_i hcov
    split at hw
    · split at hw
      · rename_i hact
        cases hw
        exact h.storeDreqCtrl fun _ => h.dreq.1 hact
      · rename_i hact
        split at hw
        · simp at hw
        · rename_i hlen
          cases hw
          exact (h.setRemaining fun hon => absurd hon hact).storeDreqCtrl fun _ => hlen
    · rename_i hbit
      cases hw
      refine State.Inv.storeDreqCtrl (h.setFifo (q := []) (Nat.zero_le _)) fun hb => absurd ?_ hbit
      simpa [hcov] using of_merge16_getLsbD hb
  · rename_i hcov
    cases hw
    refine h.storeDreqCtrl fun hb => h.dreq.1 ?_
    simpa [hcov, State.dreqActive] using of_merge16_getLsbD hb

/-- While a transfer is active its length is not set to 0 (42_dreq_bridge R243). -/
theorem writeDreqLen_inv {w : Half} (h : s.Inv) (hw : writeDreqLen w s = .done t) : t.Inv := by
  unfold writeDreqLen at hw
  split at hw
  · simp at hw
  · rename_i hok
    cases hw
    have hrem : State.Inv { s with remaining := w } := h.setRemaining fun hact hz => hok ⟨hact, hz⟩
    exact (hrem.setReg (l := .dreqLen) (by decide) w).setFifo (q := []) (Nat.zero_le _)

/-- With no word left `active` is dropped, so a count of the words left is sound with it
(42_dreq_bridge R245). -/
theorem State.Inv.dropActiveAtZero {n : Half} (h : s.Inv) :
    (dropActiveAtZero { s with remaining := n }).Inv := by
  unfold Machine.dropActiveAtZero
  split
  · refine ⟨h.queues, h.widths, ⟨fun hact => ?_, ?_⟩, h.fills, h.canonical, h.sized⟩
    · simp [State.dreqActive, putBit_false_getLsbD] at hact
    · have hfull := h.dreq.2
      simp only [State.reg] at hfull
      simp [putBit_false_getLsbD, State.reg, hfull]
  · rename_i hn
    exact h.setRemaining fun _ => hn

@[simp] theorem dropActiveAtZero_cfg (s : State) : (dropActiveAtZero s).cfg = s.cfg := by
  unfold dropActiveAtZero
  split <;> rfl

/-- A word is appended only where the FIFO has room. -/
theorem writeDreqFifo_inv {p : Port} {a : Addr} {w : Half} (h : s.Inv) : (writeDreqFifo p a w s).Inv := by
  have hreg : (s.setReg .dreqFifo w).Inv := h.setReg (by decide) w
  unfold writeDreqFifo
  simp only
  split
  · rename_i hroom
    refine hreg.dropActiveAtZero.setFifo ?_
    simpa using hroom.2
  · exact hreg.of_eq rfl

theorem pushSample_inv {p : Port} {a : Addr} {side : Side} {w : Half} (h : s.Inv) :
    (pushSample p a side w s).Inv := by
  unfold pushSample
  split
  · rename_i hroom
    refine h.setPwmFifo side (by simpa using hroom) fun y hy => ?_
    obtain hy | rfl : y ∈ s.pwmFifo.get side ∨ y = truncTo s.cfg.pwmSampleBits w := by simpa using hy
    · exact h.widths.2.2 side y hy
    · exact truncTo_lt _ _
  · exact h.of_eq rfl

theorem of_checkFill_none {b a n : Nat} (h : checkFill b a n = none) : a % 2 = 0 ∧ a + 2 * n ≤ b := by
  unfold checkFill at h
  split at h
  · simp at h
  · split at h
    · simp at h
    · omega

/-- A fill that passes its check writes, or starts, inside the bank (43_framebuffer_arbiter R286). -/
theorem writeFillData_inv {p : Port} {w : Half} (h : s.Inv) (hw : writeFillData p w s = .done t) : t.Inv := by
  have hreg : (s.setReg .fillData w).Inv := h.setReg (by decide) w
  unfold writeFillData at hw
  simp only at hw
  split at hw
  · simp at hw
  · rename_i hcheck
    obtain ⟨heven, hend⟩ := of_checkFill_none hcheck
    cases p with
    | ext =>
      cases hw
      exact (hreg.setDram s.acc ((h.memoriesFit.dram s.acc).fillRun hend w)).of_eq rfl
    | int c =>
      cases hw
      refine (hreg.setFill c (f := some _) fun g hg => ?_).of_eq rfl
      cases hg
      exact ⟨heven, Nat.le_add_left 1 _, hend⟩

theorem writeLatch_inv {p : Port} {a : Addr} {l : Latch} {ln : Lanes} {v : Half} (h : s.Inv)
    (hw : writeLatch p a l ln v s = .done t) : t.Inv := by
  cases l with
  | dreqCtrl => exact writeDreqCtrl_inv h hw
  | dreqLen => exact writeDreqLen_inv h hw
  | fillData => exact writeFillData_inv h hw
  | dreqFifo => cases hw; exact writeDreqFifo_inv h
  | pwmLeft => cases hw; exact pushSample_inv (h.setReg (by decide) _)
  | pwmRight => cases hw; exact pushSample_inv (h.setReg (by decide) _)
  | pwmMono => cases hw; exact pushSample_inv (pushSample_inv (h.setReg (by decide) _))
  | fillAddr => cases hw; exact (h.setReg (l := .fillAddr) (by decide) _).of_eq rfl
  | _ => cases hw; exact h.setReg (by simp) _

/-! ## Bus writes -/

/-- The number of cells that an access to the target may reach, where it has an array of its own. -/
def targetRoom (cfg : Config) : Target → Option Nat
  | .dram => some cfg.fbBankBytes
  | .sdram => some cfg.sdramBytes
  | .cache => some 4096
  | .reg .palette => some 512
  | _ => none

/-- An aligned access to a RAM window or the palette stays inside the array behind it with both bytes
(20_memory R84, 30_encoding R129). -/
theorem window_room {p : Port} {a : Addr} {tg : Target} {off n : Nat} (hc : s.cfg.problem = none)
    (ha : a.getLsbD 0 = false) (hd : decodeAddr p a s = some (tg, off)) (hn : targetRoom s.cfg tg = some n) :
    off + 1 < n := by
  obtain ⟨e, _, hok, _, _, rfl, hlt, _⟩ := window_bound hc ha hd
  simp only [Entry.targetOk, Bool.and_eq_true] at hok
  replace hok := hok.2
  unfold targetRoom at hn
  split at hn <;> rename_i htg <;>
    simp only [htg, Bool.and_eq_true, Nat.ble_eq, beq_iff_eq, Option.some.injEq, reduceCtorEq] at hok hn <;>
    omega

theorem Wrote.inv {p : Port} {ln : Lanes} {a : Addr} {v : Half} (hc : s.cfg.problem = none)
    (ha : a.getLsbD 0 = false) (h : s.Inv) (hw : Wrote p ln a v s t) : t.Inv := by
  have room := fun {tg off n} => window_room (p := p) (tg := tg) (off := off) (n := n) hc ha
  cases hw with
  | unmapped => exact h.of_eq rfl
  | latch l off t hd hv hl => exact writeLatch_inv h hl
  | intMask c hp => exact h.of_eq (by rw [writeIntMask_eq])
  | intClr c src hp => exact h.of_eq rfl
  | palette off hd hg =>
    have hlt : off + 1 < 512 := room hd rfl
    exact h.setColor (by omega) _
  | dram off hd hg => exact h.setDram s.acc ((h.memoriesFit.dram s.acc).memWrite (room hd rfl) ln v)
  | sdram off hd => exact h.setSdram (h.memoriesFit.sdram.memWrite (room hd rfl) ln v)
  | cache c off hp hd => exact h.setCacheRam c ((h.memoriesFit.cacheRam c).memWrite (room hd rfl) ln v)

/-! ## Transactions -/

theorem addr_add_two_even {d : Addr} (h : d.getLsbD 0 = false) : (d + 2#32).getLsbD 0 = false := by
  have hd : d.toNat % 2 = 0 := by simpa [BitVec.getLsbD, Nat.testBit_zero] using h
  have hsum : (d.toNat + 2) % 2 ^ 32 % 2 = 0 := by omega
  simpa [BitVec.getLsbD, Nat.testBit_zero] using hsum

/-- A transfer takes one from the count or ends at it. -/
theorem afterTransfer_count_lt {k : DmaChannel} {n : Nat} (h0 : k.count ≠ 0#32) (h : k.count.toNat < n) :
    (DmaChannel.afterTransfer k).count.toNat < n := by
  have hle : (k.count - 1#32).toNat ≤ k.count.toNat := by bv_omega
  unfold DmaChannel.afterTransfer
  simp only
  split <;> exact lt_of_le_of_lt hle h

theorem drain_inv {c : CoreId} (hc : s.cfg.problem = none) (h : s.Inv) (hd : drain c s = .done (r, t)) :
    t.Inv := by
  obtain ⟨_, rfl⟩ | ⟨ch, hi, lo, rest, t1, t2, _, _, hfifo, hcount, heven, _, _, hw1, hw2, rfl⟩ := drain_done hd
  · exact h
  · have hlen := h.queues.1
    rw [hfifo] at hlen
    have hs : (setFifo rest s).Inv := h.setFifo (by simp only [List.length_cons] at hlen; omega)
    have h1 : t1.Inv := hw1.inv (s := setFifo rest s) hc heven hs
    have h2 : t2.Inv := hw2.inv (by rw [hw1.cfg]; exact hc) (addr_add_two_even heven) h1
    have hsame : t2.chan c ch = s.chan c ch := by rw [hw2.frame, hw1.frame]; rfl
    refine h2.setChan c ch (afterTransfer_count_lt ?_ (h2.widths.1 c ch))
    rwa [hsame]

theorem program_count_lt {k : DmaChannel} {bits : Nat} {f : DmaField} {v : Addr}
    (hv : dmaValueOk bits f v = true) (hk : k.count.toNat < 2 ^ bits) :
    (DmaChannel.program k f v).count.toNat < 2 ^ bits := by
  cases f with
  | count => simpa [dmaValueOk, DmaChannel.program] using hv
  | _ => exact hk

/-- The rest of a fill in flight is inside the bank. -/
theorem Fill.next_inBank {b : Nat} {f g : Fill} (h : f.inBank b) (hg : Fill.next f = some g) : g.inBank b := by
  obtain ⟨heven, hleft, hend⟩ := h
  unfold Fill.next at hg
  split at hg
  · simp at hg
  · cases hg
    exact ⟨by simp only; omega, by simp only; omega, by simp only; omega⟩

/-- A tick takes an output from the FIFO's front, or silences it (44_pwm R306). -/
theorem tickSide_inv (side : Side) (h : s.Inv) : (tickSide s side).Inv := by
  unfold tickSide
  split
  · split
    · exact h
    · rename_i x rest hq
      have hlen := h.queues.2 side
      have hsamples := h.widths.2.2 side
      rw [hq] at hlen hsamples
      have hfifo := h.setPwmFifo side (q := rest) (by simp only [List.length_cons] at hlen; omega)
        fun y hy => hsamples y (List.mem_cons_of_mem x hy)
      exact hfifo.setPwmOut side (hsamples x List.mem_cons_self)
  · exact h
  · exact h.setPwmOut side (Nat.two_pow_pos _)

theorem pwmClock_inv (h : s.Inv) : (pwmClock s).Inv := by
  unfold pwmClock
  split
  · exact h
  · split
    · have hs : State.Inv { s with divCount := 0 } := h.of_eq rfl
      exact (tickSide_inv .right (tickSide_inv .left hs)).of_eq (by rw [pwmTick, pwmPeriodStep_frame]; rfl)
    · exact h.of_eq rfl

theorem resetEffect_inv (kind : ResetKind) (h : s.Inv) : (resetEffect kind s).Inv := by
  have hreg : (resetFields s).reg .dreqCtrl = 0#16 := reset_reg .dreqCtrl
  cases kind with
  | reset =>
    have hm := h.memoriesFit
    exact inv_of_cleared rfl rfl rfl rfl hreg rfl ⟨hm.dram, hm.palette, hm.cacheRam, hm.sdram⟩
  | power =>
    refine inv_of_cleared rfl rfl rfl rfl hreg rfl
      ⟨fun b => ?_, Mem.fits_ofCells _ _, fun c => ?_, Mem.fits_ofCells _ _⟩
    · cases b <;> exact Mem.fits_ofCells _ _
    · cases c <;> exact Mem.fits_ofCells _ _

/-- A well-formed transaction keeps the invariant under a well-formed configuration. -/
theorem Ran.inv (hc : s.cfg.problem = none) (hi : i.wellFormed s.cfg.dmaCountBits = true) (h : s.Inv)
    (hr : Ran i s r t) : t.Inv := by
  cases hr with
  | read p u l a prior v s t hf ha hb =>
    obtain ⟨k, e, rfl, _⟩ := busRead_done hb
    exact h.of_eq rfl
  | write p u l a v s t hf ha hw => exact hw.inv hc ha.1 h
  | raise src s => exact h.of_eq (by rw [raiseSource_eq])
  | interrupt c m src s hp => exact h.of_eq (by rw [deliver_eq])
  | drain c m r s t hq hd => exact drain_inv hc h hd
  | fillstepIdle c s hf => exact h
  | fillstep c f s hf hg =>
    have hin := h.fills c f hf
    have hroom : f.addr + 1 < s.cfg.fbBankBytes := by obtain ⟨_, hleft, hend⟩ := hin; omega
    have hfit := (h.memoriesFit.dram s.acc).memWrite hroom Lanes.full f.data
    exact (h.setDram s.acc hfit).setFill c fun g hnext => Fill.next_inBank hin hnext
  | dmacfg c ch f v s => exact h.setChan c ch (program_count_lt hi (h.widths.1 c ch))
  | vblank line s => exact h.of_eq (by rw [vblankLine_eq])
  | hblank line s => exact h.of_eq (by rw [hblankLine_eq])
  | pwmclk s => exact pwmClock_inv h
  | reset kind s => exact resetEffect_inv kind h
  | _ => exact h.of_eq rfl

theorem exec_inv (hc : s.cfg.problem = none) (hi : i.wellFormed s.cfg.dmaCountBits = true) (h : s.Inv)
    (hx : exec i s = .next t) : t.Inv := by
  obtain ⟨hd, rfl⟩ | ⟨r, u, hr, rfl⟩ := exec_next hx
  · exact h.of_eq rfl
  · exact (hr.inv hc hi h).of_eq rfl

/-! ## Steps -/

theorem guardZero_ok {ok : Bool} {d : Decoded} (h : Txn.guardZero ok d = .ok i) : d = .ok i := by
  unfold Txn.guardZero at h
  split at h
  · exact h
  · simp at h

theorem decodeSource_ok {x : Txn} {k : Source → Instr} (h : decodeSource x k = .ok i) :
    ∃ src, i = k src := by
  unfold decodeSource at h
  split at h
  · simp at h
  · exact ⟨_, (Decoded.ok.inj h).symm⟩

theorem decodeDmaField_ok {x : Txn} {k : DmaField → Decoded} (h : decodeDmaField x k = .ok i) :
    ∃ f, k f = .ok i := by
  unfold decodeDmaField at h
  split at h
  · simp at h
  · exact ⟨_, h⟩

theorem decodeDmaValue_ok {bits : Nat} {f : DmaField} {v : Addr} {j : Instr}
    (h : decodeDmaValue bits f v j = .ok i) : i = j ∧ dmaValueOk bits f v = true := by
  cases f with
  | src | dst => exact ⟨(Decoded.ok.inj h).symm, rfl⟩
  | count | ctrl =>
    simp only [decodeDmaValue] at h
    split at h
    · exact ⟨(Decoded.ok.inj h).symm, by simpa [dmaValueOk] using ‹_›⟩
    · simp at h

/-- What a word decodes to is well-formed: its reserved values are refused (30_encoding R126, R130). -/
theorem decode_wellFormed {bits : Nat} {x : TxnWord} (h : decode bits x = .ok i) :
    i.wellFormed bits = true := by
  unfold decode decodeTxn at h
  split at h
  case h_5 | h_6 | h_7 => obtain ⟨src, rfl⟩ := decodeSource_ok (guardZero_ok h); rfl
  case h_10 =>
    obtain ⟨f, hf⟩ := decodeDmaField_ok (guardZero_ok h)
    obtain ⟨rfl, hv⟩ := decodeDmaValue_ok hf
    exact hv
  case h_11 =>
    obtain ⟨f, hf⟩ := decodeDmaField_ok (guardZero_ok h)
    cases hf; rfl
  case h_19 => simp at h
  all_goals cases guardZero_ok h; rfl

/-- Settles O55: a step leaves the state, its turn used, or the effect of a well-formed transaction under a
well-formed configuration, and `exec_inv` covers the last. -/
theorem everyStepKeepsTheInvariant : Obligations.EveryStepKeepsTheInvariant := by
  intro s t h hs
  have hturn : (takeTurn s).2.Inv := h.of_eq (by rw [takeTurn_eq])
  obtain rfl | ⟨hc, rfl | ⟨x, i, hd, hx⟩⟩ := step_next hs
  · exact h
  · exact hturn
  · rw [← takeTurn_cfg s] at hc hd
    exact exec_inv hc (decode_wellFormed hd) hturn hx

end Sys2Proof.Machine
end

section
/-! PROOF. The bus calls of an agent that no fill in flight holds: their alignment and lane checks, the open
bus, the ROM windows, and the writes of a core to SDRAM and its cache window (20_memory R83, R89 to R92;
41_bus_decoder R216 to R222). -/

namespace Sys2Proof.Machine

variable {p : Port} {u l : Bool} {a : Addr} {v : Half} {s t : State} {tg : Target} {off : Nat}

/-! ## The checks of a bus call -/

/-- An unheld read call ends as its checked read does (41_bus_decoder R200, R202). -/
theorem exec_readTxn (u l : Bool) (a : Addr) (prior : Half) (hf : s.unheld p) :
    exec (p.readTxn u l a prior) s = finish p.agent s (readCall p { u := u, l := l } a prior s) := by
  cases p with
  | ext => rfl
  | int c => exact coreTxn_free 0x01 c s (fun c => readCall (.int c) { u := u, l := l } a prior s) hf

/-- An unheld write call ends as its checked write does (41_bus_decoder R201, R203). -/
theorem exec_writeTxn (u l : Bool) (a : Addr) (v : Half) (hf : s.unheld p) :
    exec (p.writeTxn u l a v) s = finish p.agent s (writeCall p { u := u, l := l } a v s) := by
  cases p with
  | ext => rfl
  | int c => exact coreTxn_free 0x02 c s (fun c => writeCall (.int c) { u := u, l := l } a v s) hf

theorem checkedCall_odd {α : Type} (ln : Lanes) (r : Result α) (ha : a.getLsbD 0 = true) :
    checkedCall ln a r = .fault .misalignedCall := by
  simp only [checkedCall, ha, if_true]

theorem checkedCall_noLane {α : Type} (r : Result α) (ha : a.getLsbD 0 = false) :
    checkedCall { u := false, l := false } a r = .fault .noLane := by
  simp only [checkedCall, ha, Bool.or_self, Bool.false_eq_true, if_false]

/-- Settles O9: an unheld call is its checked read or write, and the check faults before either. -/
theorem busCallsAreChecked : Obligations.BusCallsAreChecked := by
  intro p u l a v s hf
  simp only [exec_readTxn _ _ a v hf, exec_writeTxn _ _ a v hf, readCall, writeCall]
  constructor
  · intro ha
    simp only [checkedCall_odd _ _ ha, finish_fault, and_self]
  · intro ha
    simp only [checkedCall_noLane _ ha, finish_fault, and_self]

/-! ## Open bus -/

theorem busRead_unmapped (ln : Lanes) (prior : Half) (hd : decodeAddr p a s = none) :
    busRead p ln a prior s = .done (unmappedRead p a prior s) := by
  simp only [busRead, hd]

theorem busWrite_unmapped (ln : Lanes) (v : Half) (hd : decodeAddr p a s = none) :
    busWrite p ln a v s = .done (unmappedWrite p a s) := by
  simp only [busWrite, hd]

/-- A target that has nothing at the offset reads as an unmapped address does (20_memory R91). -/
theorem busRead_noValue (ln : Lanes) (prior : Half) (hd : decodeAddr p a s = some (tg, off))
    (ht : targetRead p tg off s = .done (none, t)) :
    busRead p ln a prior s = .done (unmappedRead p a prior t) := by
  simp [busRead, hd, ht]

/-- Settles O25: the read and the write of an address that decodes to nothing complete, and log it. -/
theorem unmappedAccessIsOpenBus : Obligations.UnmappedAccessIsOpenBus := by
  intro p u l a v s hf ha hd
  exact ⟨readTxn_done p u l a v v s _ hf ha (busRead_unmapped _ v hd),
    writeTxn_done p u l a v s _ hf ha (busWrite_unmapped _ v hd)⟩

/-! ## Lanes of a half-word read -/

@[simp] theorem upperByte_append (b c : Byte) : upperByte (b ++ c) = b :=
  BitVec.extractLsb'_append_eq_left

@[simp] theorem lowerByte_append (b c : Byte) : lowerByte (b ++ c) = c :=
  BitVec.extractLsb'_append_eq_right

@[simp] theorem upperByte_merge16 (old new : Half) (ln : Lanes) :
    upperByte (merge16 old new ln) = if ln.u then upperByte new else upperByte old :=
  upperByte_append ..

@[simp] theorem lowerByte_merge16 (old new : Half) (ln : Lanes) :
    lowerByte (merge16 old new ln) = if ln.l then lowerByte new else lowerByte old :=
  lowerByte_append ..

/-- The byte at the address is the most significant (20_memory R82). -/
@[simp] theorem upperByte_memHalf (m : Memory) (x : Nat) : upperByte (memHalf m x) = Mem.get m x :=
  upperByte_append ..

@[simp] theorem lowerByte_memHalf (m : Memory) (x : Nat) : lowerByte (memHalf m x) = Mem.get m (x + 1) :=
  lowerByte_append ..

/-- A completed read call of a half-word of memory: the selected lanes are its bytes, the others those of
`prior`, and the read is logged (20_memory R82, R88). -/
theorem readTxn_memHalf {m : Memory} {x : Nat} (u l : Bool) (prior : Half) (hf : s.unheld p)
    (ha : callOk u l a) (hd : decodeAddr p a s = some (tg, off))
    (ht : targetRead p tg off s = .done (some (memHalf m x), s)) :
    ∃ r, exec (p.readTxn u l a prior) s =
        .next ({ s with log := s.log ++ [Event.read p.agent a r] }.done p.agent (.value r))
    ∧ upperByte r = (if u then Mem.get m x else upperByte prior)
    ∧ lowerByte r = (if l then Mem.get m (x + 1) else lowerByte prior) :=
  ⟨merge16 prior (memHalf m x) { u := u, l := l },
    readTxn_done p u l a prior _ s _ hf ha (busRead_value _ prior hd ht), by simp, by simp⟩

/-! ## ROM windows -/

theorem Image.half_inside {img : Image} {o : Nat} (h : o + 1 < img.size) :
    Image.half img o = some (memHalf img.cells o) := if_pos h

theorem Image.half_past {img : Image} {o : Nat} (h : img.size ≤ o + 1) : Image.half img o = none :=
  if_neg (Nat.not_lt.mpr h)

/-- Target `tg` shows image `img` to port `p`, with offset `off` of the window at offset `o` of the image, and
takes no write (20_memory R91). -/
def ShowsImage (p : Port) (s : State) (tg : Target) (off o : Nat) (img : Image) : Prop :=
  targetRead p tg off s = .done (Image.half img o, s)
  ∧ ∀ a ln v, targetWrite p a tg off ln v s = .done (unmappedWrite p a s)

theorem showsImage_boot (c : CoreId) (s : State) (off : Nat) :
    ShowsImage (.int c) s .boot off off (s.cfg.bootRom.get c) := ⟨rfl, fun _ _ _ => rfl⟩

theorem showsImage_rom (p : Port) (s : State) (off : Nat) (ht : tg = .progRom ∨ tg = .romFixed ∨ tg = .cart) :
    ShowsImage p s tg off off s.cfg.rom := by
  obtain rfl | rfl | rfl := ht <;> exact ⟨rfl, fun _ _ _ => rfl⟩

theorem showsImage_romBank (p : Port) (s : State) (off : Nat) :
    ShowsImage p s .romBank off (bankedOffset s off) s.cfg.rom := ⟨rfl, fun _ _ _ => rfl⟩

theorem showsImage_vecRom (p : Port) (s : State) (off : Nat) :
    ShowsImage p s .vecRom off off s.cfg.vectorRom := ⟨rfl, fun _ _ _ => rfl⟩

/-- Settles O27: each ROM target shows its image (`showsImage_boot` to `showsImage_vecRom`), and a read of
it is the read of a half-word inside the image, and of the open bus past its end. -/
theorem romWindowAccesses : Obligations.RomWindowAccesses := by
  intro p u l a v tg off o img s hf ha hd hrom
  have shows : ShowsImage p s tg off o img := by
    obtain ⟨rfl, rfl, c, rfl, rfl⟩ | ⟨ht, rfl, rfl⟩ | ⟨rfl, rfl, rfl⟩ | ⟨rfl, rfl, rfl⟩ := hrom
    · exact showsImage_boot c s o
    · exact showsImage_rom p s o ht
    · exact showsImage_romBank p s off
    · exact showsImage_vecRom p s o
  obtain ⟨hread, hwrite⟩ := shows
  refine ⟨fun hin => ?_, fun hpast => ?_, ?_⟩
  · rw [Image.half_inside hin] at hread
    exact readTxn_memHalf u l v hf ha hd hread
  · rw [Image.half_past hpast] at hread
    exact readTxn_done p u l a v v s _ hf ha (busRead_noValue _ v hd hread)
  · exact writeTxn_done p u l a v s _ hf ha ((busWrite_eq _ v hd).trans (hwrite a _ v))

/-! ## Writes to SDRAM and the cache window -/

/-- A completed write call of a core that leaves the script to the call. -/
theorem writeTxn_completes {c : CoreId} (hf : s.fill.get c = none) (ha : callOk u l a)
    (hw : busWrite (.int c) { u := u, l := l } a v s = .done t) (hs : t.script = s.script) :
    Completes (.wri (.core c) u l a v) s .done (t.done (.core c) .done) :=
  ⟨writeTxn_done (.int c) u l a v s t hf ha hw, rfl, by rw [done_script, hs]; rfl⟩

/-- Settles O28: the write stores the half-word's selected lanes (`memWrite_get`) in the one memory. -/
theorem sdramAndCacheWrites : Obligations.SdramAndCacheWrites := by
  intro c u l a v off s hf ha
  constructor
  · intro hd
    exact ⟨_, writeTxn_completes hf ha (busWrite_eq _ v hd) rfl, rfl,
      fun x => memWrite_get s.sdram off x { u := u, l := l } v⟩
  · intro hd
    refine ⟨_, writeTxn_completes hf ha (busWrite_eq _ v hd) rfl, rfl, ?_, fun x => ?_⟩
    · simp [PerCore.get_set]
    · simp [memWrite_get]

end Sys2Proof.Machine
end

section
/-! PROOF. Decoding takes the most specific entry, and a well-formed map has one such entry (20_memory R84,
R86, R87, R104). -/

namespace Sys2Proof.Machine

variable {p : Port} {a : Addr} {s : State} {e f : Entry}

/-! ## Conditions -/

@[simp] theorem condHolds_boot (p : Port) (s : State) (c : CoreId) :
    condHolds p s (.boot c) = true ↔ p = .int c ∧ s.bootMapped.get c = true := by
  simp [condHolds]

@[simp] theorem condHolds_cache (p : Port) (s : State) (c : CoreId) :
    condHolds p s (.cache c) = true ↔ p = .int c ∧ s.cacheEn.get c = true := by
  simp [condHolds]

@[simp] theorem condHolds_aden (p : Port) (s : State) : condHolds p s .aden = s.aden := rfl

@[simp] theorem condHolds_noaden (p : Port) (s : State) : condHolds p s .noaden = !s.aden := rfl

/-- Conditions that hold together are compatible: one requester is one core, and `ADEN` has one value
(20_memory R86, R87). -/
theorem compatible_of_condHolds {x y : Cond} (hx : condHolds p s x = true) (hy : condHolds p s y = true) :
    Cond.compatible x y = true := by
  have sameCore : ∀ c d, p = .int c → p = .int d → (c == d) = true := by
    rintro c d rfl h
    exact beq_iff_eq.mpr (Port.int.inj h)
  cases x with
  | always => cases y <;> rfl
  | boot c | cache c =>
    cases y with
    | boot d | cache d => simp only [condHolds_boot, condHolds_cache] at hx hy; exact sameCore c d hx.1 hy.1
    | always | aden | noaden => rfl
  | aden | noaden => cases y <;> simp_all [Cond.compatible]

/-! ## Candidates -/

/-- The entry is a candidate of port `p`'s access at `a` (20_memory R84). -/
def Candidate (p : Port) (a : Addr) (s : State) (e : Entry) : Prop :=
  e ∈ s.cfg.addrMap ∧ entryMatches p (busAddr s.cfg p a) s e = true

theorem decodeAddr_eq_none_iff : decodeAddr p a s = none ↔ ∀ e, ¬ Candidate p a s e := by
  rw [decodeAddr_none]
  exact ⟨fun h e he => h e he.1 he.2, fun h e hm he => h e ⟨hm, he⟩⟩

/-- The reduced address is an address of the bus (20_memory R104). -/
theorem busAddr_lt (cfg : Config) (p : Port) (a : Addr) : busAddr cfg p a < cfg.busSpace p.bus := by
  cases p with
  | ext => exact Nat.mod_lt _ (Nat.two_pow_pos _)
  | int c => exact a.isLt

/-- Two candidates of one size clash. -/
theorem Candidate.clash (he : Candidate p a s e) (hf : Candidate p a s f) (hb : e.bytes = f.bytes) :
    Entry.clash s.cfg e f = true := by
  obtain ⟨_, hem⟩ := he
  obtain ⟨_, hfm⟩ := hf
  obtain ⟨helo, hehi, hebus, hecond⟩ := (entryMatches_iff ..).mp hem
  obtain ⟨hflo, hfhi, hfbus, hfcond⟩ := (entryMatches_iff ..).mp hfm
  have hspace := busAddr_lt s.cfg p a
  simp only [Entry.clash, Bool.and_eq_true, Nat.ble_eq, Nat.blt_eq, beq_iff_eq, hebus, hfbus, hb,
    compatible_of_condHolds hecond hfcond, and_true]
  exact ⟨⟨helo.trans hfhi, hflo.trans hehi⟩, lt_of_le_of_lt (Nat.max_le.mpr ⟨helo, hflo⟩) hspace⟩

/-- In an unambiguous map, entries that clash both ways are one entry. -/
theorem eq_of_clash {cfg : Config} (hef : Entry.clash cfg e f = true) (hfe : Entry.clash cfg f e = true) :
    ∀ {m : List Entry}, unambiguous cfg m = true → e ∈ m → f ∈ m → e = f
  | x :: m, hu, he, hf => by
    simp only [unambiguous, Bool.and_eq_true, List.all_eq_true, Bool.not_eq_true'] at hu
    obtain ⟨hx, hm⟩ := hu
    obtain rfl | he' := List.mem_cons.mp he <;> obtain rfl | hf' := List.mem_cons.mp hf
    · rfl
    · exact absurd hef (by simp [hx f hf'])
    · exact absurd hfe (by simp [hx e he'])
    · exact eq_of_clash hef hfe hm he' hf'

/-- Under a well-formed configuration two candidates of one size are one entry (20_memory R84). -/
theorem Candidate.unique (hc : s.cfg.problem = none) (he : Candidate p a s e) (hf : Candidate p a s f)
    (hsize : e.hi - e.lo = f.hi - f.lo) : e = f := by
  obtain ⟨_, hrange, _, _, hu, _⟩ := Config.problem_none hc
  have ordered : ∀ g ∈ s.cfg.addrMap, g.lo ≤ g.hi := by
    intro g hg
    have hg := List.all_eq_true.mp hrange g hg
    simp only [Entry.rangeOk, Bool.and_eq_true, Nat.ble_eq] at hg
    exact hg.2
  have hb : e.bytes = f.bytes := by
    have hle := ordered e he.1
    have hlf := ordered f hf.1
    simp only [Entry.bytes]
    omega
  exact eq_of_clash (he.clash hf hb) (hf.clash he hb.symm) hu he.1 hf.1

/-- Settles O24: the statement's candidates are `Candidate`, of which decoding takes one of the least size
(`decodeAddr_some`), and `Candidate.unique` says that there is one. -/
theorem decodingTakesTheMostSpecificEntry : Obligations.DecodingTakesTheMostSpecificEntry := by
  intro p a s a' cand
  have ha : a' = busAddr s.cfg p a := by cases p <;> rfl
  have hcand : ∀ e, cand e ↔ Candidate p a s e := by
    intro e
    simp only [cand, Candidate, entryMatches_iff, ha]
    cases e.cond <;> simp <;> tauto
  simp only [hcand, ha]
  refine ⟨decodeAddr_eq_none_iff, fun t off hd => ?_, fun hc e f he hf => he.unique hc hf⟩
  obtain ⟨e, hm, hmatch, ht, hoff, hleast⟩ := decodeAddr_some hd
  exact ⟨e, ⟨hm, hmatch⟩, ht, hoff, fun f hf => hleast f hf.1 hf.2⟩

end Sys2Proof.Machine
end

section
/-! PROOF. The decoder and the encoder are inverse to each other, and the refused words are those that break
a rule of the encoding (30_encoding R120 to R126, R130). -/

namespace Sys2Proof.Machine

variable {bits : Nat} {t : Txn} {i : Instr} {d : Decoded}

/-! ## The decoder gives the encoded transaction back -/

/-- Settles O1: the round trip of each transaction is that of its row (`Laws.RoundTrip`). -/
theorem decodeOfEncodeIsTheTransaction : Obligations.DecodeOfEncodeIsTheTransaction := by
  intro bits i h
  cases i with
  | rdi ag u l a v => exact Laws.RoundTrip.rdi ag u l a v bits h
  | wri ag u l a v => exact Laws.RoundTrip.wri ag u l a v bits h
  | rdx ag u l a v => exact Laws.RoundTrip.rdx ag u l a v bits h
  | wrx ag u l a v => exact Laws.RoundTrip.wrx ag u l a v bits h
  | raise ag src => exact Laws.RoundTrip.raise ag src bits h
  | ack ag src => exact Laws.RoundTrip.ack ag src bits h
  | seten ag src value => exact Laws.RoundTrip.seten ag src value bits h
  | poll ag mask => exact Laws.RoundTrip.poll ag mask bits h
  | fillstep ag => exact Laws.RoundTrip.fillstep ag bits h
  | dmacfg ag ch field value => exact Laws.RoundTrip.dmacfg ag ch field value bits h
  | dmard ag ch field => exact Laws.RoundTrip.dmard ag ch field bits h
  | bootexit ag => exact Laws.RoundTrip.bootexit ag bits h
  | cachecfg ag enable => exact Laws.RoundTrip.cachecfg ag enable bits h
  | vblank ag line => exact Laws.RoundTrip.vblank ag line bits h
  | hblank ag line => exact Laws.RoundTrip.hblank ag line bits h
  | pwmclk ag => exact Laws.RoundTrip.pwmclk ag bits h
  | reset ag kind => exact Laws.RoundTrip.reset ag kind bits h
  | serialize ag => exact Laws.RoundTrip.serialize ag bits h

/-- Settles O3: the decoder computes on the six words. -/
theorem wordsFromTheSpecDecode : Obligations.WordsFromTheSpecDecode := by
  unfold Obligations.WordsFromTheSpecDecode
  decide

/-! ## What each part of the decoder accepts -/

theorem guardZero_ok_iff {ok : Bool} : Txn.guardZero ok d = .ok i ↔ ok = true ∧ d = .ok i := by
  cases ok <;> simp [Txn.guardZero]

theorem decodeSource_ok_code {k : Source → Instr} (h : decodeSource t k = .ok i) :
    ∃ src, src.code = t.argLow ∧ i = k src := by
  unfold decodeSource at h
  split at h
  · simp at h
  · next src hsrc => exact ⟨src, Source.code_of_ofCode _ _ hsrc, (Decoded.ok.inj h).symm⟩

theorem decodeDmaField_ok_code {k : DmaField → Decoded} (h : decodeDmaField t k = .ok i) :
    ∃ f, f.code = t.argLow ∧ k f = .ok i := by
  unfold decodeDmaField at h
  split at h
  · simp at h
  · next f hf => exact ⟨f, DmaField.code_of_ofCode _ _ hf, h⟩

/-! ## The fields of an accepted word -/

theorem plain_iff :
    t.plain = true ↔ (t.u = false ∧ t.l = false ∧ t.data = 0#16) ∧ t.addr = 0#32 := by
  simp only [Txn.plain, Bool.and_eq_true, Bool.not_eq_true', beq_iff_eq]
  tauto

/-- The fields of a bus call, `ARG` zero, are those its word gives (30_encoding R123). -/
theorem busTxn_eq {op : BitVec 8} (hop : t.op.toNat = op.toNat) (harg : (t.arg == 0#4) = true) :
    busTxn op (Agent.ofCode t.ag) t.u t.l t.addr t.data = t := by
  obtain rfl := BitVec.eq_of_toNat_eq hop
  rw [busTxn, Agent.code_ofCode, ← beq_iff_eq.mp harg]

/-- The fields of any other tag, `U`, `L` and `DATA` zero, are those its word gives (30_encoding R123). -/
theorem argTxn_eq {op : BitVec 8} {arg : BitVec 4} (hop : t.op.toNat = op.toNat)
    (hzero : t.u = false ∧ t.l = false ∧ t.data = 0#16) (harg : arg = t.arg) :
    argTxn op (Agent.ofCode t.ag) arg t.addr = t := by
  obtain rfl := BitVec.eq_of_toNat_eq hop
  obtain ⟨hu, hl, hdata⟩ := hzero
  change _ = Txn.mk t.op t.ag t.u t.l t.arg t.addr t.data
  rw [argTxn, Agent.code_ofCode, harg, hu, hl, hdata]

theorem argTxn_plain_eq {op : BitVec 8} {arg : BitVec 4} (hop : t.op.toNat = op.toNat)
    (hp : t.plain = true) (harg : arg = t.arg) : argTxn op (Agent.ofCode t.ag) arg = t := by
  obtain ⟨hz, haddr⟩ := plain_iff.mp hp
  rw [← haddr]
  exact argTxn_eq hop hz harg

theorem packArg_eq {low : BitVec 3} (hlow : low = t.argLow) : packArg t.argHi low = t.arg :=
  hlow ▸ packArg_parts t.arg

theorem bitArg_eq (h : (t.arg.extractLsb' 1 3 == 0#3) = true) : bitArg t.argBit = t.arg :=
  bitArg_parts t.arg (beq_iff_eq.mp h)

/-- Fields that decode are the fields of what they decode to: every must-be-zero field is zero, and every
code is the code of what it was read as (30_encoding R123 to R126). -/
theorem encodeTxn_of_decodeTxn (h : decodeTxn bits t = .ok i) : encodeTxn i = t := by
  unfold decodeTxn at h
  split at h
  case h_19 => simp at h
  all_goals rename_i hop; obtain ⟨hz, h⟩ := guardZero_ok_iff.mp h
  -- the bus calls
  case h_1 | h_2 | h_3 | h_4 => cases h; exact busTxn_eq hop hz
  -- `ARG` is a source code, below the bit the tag gives
  case h_5 | h_6 =>
    rw [Bool.and_eq_true, Bool.not_eq_true'] at hz
    obtain ⟨hp, hhi⟩ := hz
    obtain ⟨src, hsrc, rfl⟩ := decodeSource_ok_code h
    have harg := packArg_eq hsrc
    rw [hhi] at harg
    exact argTxn_plain_eq hop hp harg
  case h_7 =>
    obtain ⟨src, hsrc, rfl⟩ := decodeSource_ok_code h
    exact argTxn_plain_eq hop hz (packArg_eq hsrc)
  -- `ARG` is the mask
  case h_8 => cases h; exact argTxn_plain_eq hop hz rfl
  -- `ARG` is a channel and a DMA field code
  case h_10 =>
    obtain ⟨f, hf, h⟩ := decodeDmaField_ok_code h
    obtain ⟨rfl, -⟩ := decodeDmaValue_ok h
    exact argTxn_eq hop (by simpa [and_assoc] using hz) (by rw [Channel.bit_ofBit, packArg_eq hf])
  case h_11 =>
    obtain ⟨f, hf, h⟩ := decodeDmaField_ok_code h
    cases h
    exact argTxn_plain_eq hop hz (by rw [Channel.bit_ofBit, packArg_eq hf])
  -- `ARG` is zero
  case h_9 | h_12 | h_16 | h_18 =>
    obtain ⟨hp, harg⟩ := Bool.and_eq_true_iff.mp hz
    cases h
    exact argTxn_plain_eq hop hp (beq_iff_eq.mp harg).symm
  -- `ARG` is one bit
  case h_13 | h_14 | h_15 =>
    obtain ⟨hp, harg⟩ := Bool.and_eq_true_iff.mp hz
    cases h
    exact argTxn_plain_eq hop hp (bitArg_eq harg)
  case h_17 =>
    obtain ⟨hp, harg⟩ := Bool.and_eq_true_iff.mp hz
    cases h
    exact argTxn_plain_eq hop hp (by rw [ResetKind.bit_ofBit, bitArg_eq harg])

/-- Settles O2: the fields of the word are those of what it decodes to, and so is the word. -/
theorem encodeOfDecodeIsTheWord : Obligations.EncodeOfDecodeIsTheWord := by
  intro bits w i h
  refine ⟨?_, decode_wellFormed h⟩
  rw [encode, encodeTxn_of_decodeTxn h, Txn.toWord_ofWord]

/-! ## The refused words -/

/-- The decoder refuses (30_encoding R130). -/
def Refused (d : Decoded) : Prop := ∃ why, d = .rejected why

@[simp] theorem refused_rejected (why : Reject) : Refused (.rejected why) := ⟨why, rfl⟩

@[simp] theorem not_refused_ok (i : Instr) : ¬ Refused (.ok i) := by simp [Refused]

theorem refused_guardZero (ok : Bool) (d : Decoded) :
    Refused (Txn.guardZero ok d) ↔ ok = false ∨ Refused d := by
  cases ok <;> simp [Txn.guardZero]

@[simp] theorem refused_guardZero_and (x y : Bool) (d : Decoded) :
    Refused (Txn.guardZero (x && y) d) ↔ Refused (Txn.guardZero x (Txn.guardZero y d)) := by
  simp only [refused_guardZero, Bool.and_eq_false_iff, or_assoc]

@[simp] theorem refused_guardZero_not (x : Bool) (d : Decoded) :
    Refused (Txn.guardZero (!x) d) ↔ x = true ∨ Refused d := by
  simp only [refused_guardZero, Bool.not_eq_false']

@[simp] theorem refused_guardZero_beq {n : Nat} (x y : BitVec n) (d : Decoded) :
    Refused (Txn.guardZero (x == y) d) ↔ x ≠ y ∨ Refused d := by
  simp only [refused_guardZero, beq_eq_false_iff_ne]

@[simp] theorem refused_guardZero_plain (t : Txn) (d : Decoded) :
    Refused (Txn.guardZero t.plain d)
      ↔ t.u = true ∨ t.l = true ∨ t.data ≠ 0#16 ∨ t.addr ≠ 0#32 ∨ Refused d := by
  simp only [Txn.plain, refused_guardZero_and, refused_guardZero_not, refused_guardZero_beq]
  tauto

@[simp] theorem argLow_toNat (t : Txn) : t.argLow.toNat = t.arg.toNat % 8 := by simp [Txn.argLow]

theorem argHi_iff (t : Txn) : t.argHi = true ↔ 8 ≤ t.arg.toNat := by
  unfold Txn.argHi
  generalize t.arg = a
  revert a; decide

theorem argRest_ne_zero_iff (a : BitVec 4) : ¬ a.extractLsb' 1 3 = 0#3 ↔ 2 ≤ a.toNat := by
  revert a; decide

theorem source_ofCode_eq_none (c : BitVec 3) : Source.ofCode c = none ↔ 5 ≤ c.toNat := by
  revert c; decide

theorem dmaField_ofCode_eq_none (c : BitVec 3) : DmaField.ofCode c = none ↔ 4 ≤ c.toNat := by
  revert c; decide

@[simp] theorem refused_decodeSource (t : Txn) (k : Source → Instr) :
    Refused (decodeSource t k) ↔ 5 ≤ t.arg.toNat % 8 := by
  rw [← argLow_toNat, ← source_ofCode_eq_none, decodeSource]
  cases Source.ofCode t.argLow <;> simp

@[simp] theorem refused_decodeDmaField_ok (t : Txn) (k : DmaField → Instr) :
    Refused (decodeDmaField t (fun f => .ok (k f))) ↔ 4 ≤ t.arg.toNat % 8 := by
  rw [← argLow_toNat, ← dmaField_ofCode_eq_none, decodeDmaField]
  cases DmaField.ofCode t.argLow <;> simp

theorem refused_decodeDmaValue (f : DmaField) (v : Addr) (i : Instr) :
    Refused (decodeDmaValue bits f v i)
      ↔ (f = .ctrl ∧ 64 ≤ v.toNat) ∨ (f = .count ∧ 2 ^ bits ≤ v.toNat) := by
  cases f with
  | src | dst => simp [decodeDmaValue]
  | count | ctrl => simp only [decodeDmaValue]; split <;> simp_all

theorem refused_decodeDmaField_value (t : Txn) (v : Addr) (k : DmaField → Instr) :
    Refused (decodeDmaField t (fun f => decodeDmaValue bits f v (k f)))
      ↔ 4 ≤ t.arg.toNat % 8 ∨ (t.arg.toNat % 8 = 3 ∧ 64 ≤ v.toNat)
        ∨ (t.arg.toNat % 8 = 2 ∧ 2 ^ bits ≤ v.toNat) := by
  rw [← argLow_toNat, decodeDmaField]
  cases hf : DmaField.ofCode t.argLow with
  | none => exact iff_of_true (refused_rejected _) (.inl ((dmaField_ofCode_eq_none _).mp hf))
  | some f =>
    rw [← DmaField.code_of_ofCode _ _ hf, refused_decodeDmaValue]
    cases f <;> simp [DmaField.code]

/-- Settles O4: each row of the tag table checks its fields by the parts above. -/
theorem reservedWordsAreRefused : Obligations.ReservedWordsAreRefused := by
  intro bits w t op
  change _ ↔ Refused (decodeTxn bits t)
  unfold decodeTxn
  split
  case h_19 =>
    refine iff_of_true (.inl ?_) (refused_rejected _)
    simp only [List.mem_cons, List.not_mem_nil, or_false, not_or]
    and_intros <;> assumption
  all_goals rename_i hop
  -- `ARG` is zero, in a bus call and in a tag without operands
  case h_1 | h_2 | h_3 | h_4 => simp [op, hop]
  case h_9 | h_12 | h_16 | h_18 => simp [op, hop, or_assoc]
  -- `ARG` is a source code, below a bit that `RAISE` and `ACK` leave zero
  case h_5 | h_6 | h_7 => simp [op, hop, argHi_iff, or_assoc]
  -- `ARG` is the mask
  case h_8 => simp [op, hop, or_assoc]
  -- `ARG` is a channel and a DMA field code
  case h_10 => simp [op, hop, refused_decodeDmaField_value, or_assoc]
  case h_11 => simp [op, hop, or_assoc]
  -- `ARG` is one bit
  case h_13 | h_14 | h_15 | h_17 => simp [op, hop, argRest_ne_zero_iff, or_assoc]

end Sys2Proof.Machine
end

section
/-! PROOF. A transaction faults for an agent that its row does not name (30_encoding R122). -/

namespace Sys2Proof.Machine

variable {op : BitVec 8} {ag : Agent} {s : State}

theorem coreTxn_badAgent {k : CoreId → Result (Reply × State)} (h : Agent.isCore ag = false) :
    coreTxn op ag s k = .fault (.badAgent op ag) := by
  cases ag with
  | core c => simp [Agent.isCore] at h
  | host | env => rfl

theorem fillTxn_badAgent {k : CoreId → Result (Reply × State)} (h : Agent.isCore ag = false) :
    fillTxn op ag s k = .fault (.badAgent op ag) := by
  cases ag with
  | core c => simp [Agent.isCore] at h
  | host | env => rfl

theorem hostTxn_badAgent {k : Result (Reply × State)} (h : (ag == .host) = false) :
    hostTxn op ag s k = .fault (.badAgent op ag) := by
  cases ag with
  | host => simp at h
  | core c | env => rfl

theorem envTxn_badAgent {k : Result (Reply × State)} (h : (ag == .env) = false) :
    envTxn op ag s k = .fault (.badAgent op ag) := by
  cases ag with
  | env => simp at h
  | core c | host => rfl

/-- Settles O8: the transactions of the cores, of the host and of the environment each fault for the others. -/
theorem wrongAgentFaults : Obligations.WrongAgentFaults := by
  intro i s h
  cases i with
  | rdi | wri | ack | seten | poll | dmacfg | dmard | bootexit | cachecfg => exact coreTxn_badAgent h
  | fillstep => exact fillTxn_badAgent h
  | rdx | wrx => exact hostTxn_badAgent h
  | raise | vblank | hblank | pwmclk | reset | serialize => exact envTxn_badAgent h

end Sys2Proof.Machine
end

section
/-! PROOF. The interrupt router: its transactions, its blanking inputs, what a poll delivers, and the registers
`INT_MASK` and `INT_CLR` by which a core reaches it (40_interrupt_router R161 to R181; 44_pwm R304;
43_framebuffer_arbiter R281). -/

namespace Sys2Proof.Machine

variable {p : Port} {u l : Bool} {a : Addr} {s t : State} {i : Instr} {r : Reply} {off q : Nat}

/-! ## Completed transactions of the router -/

/-- A completed transaction whose effect `t` is `b` but for the latches: `b` is `s` with what else it changes. -/
theorem completes_with_latches {b : State} {f : CoreId → Source → LatchPair}
    (hx : exec i s = .next (t.done i.agent r)) (ht : t = { b with ib := t.ib }) (hb : b.script = s.script)
    (hf : ∀ c x, t.latch c x = f c x) :
    ∃ t', Completes i s r t' ∧ t' = { b with ib := t'.ib, script := t'.script, reply := t'.reply }
      ∧ ∀ c x, t'.latch c x = f c x := by
  have hs : t.script = s.script := by rw [ht, hb]
  exact ⟨t.done i.agent r, ⟨hx, rfl, by rw [done_script, hs]⟩, by rw [ht]; rfl, hf⟩

/-- Settles O11: `RAISE` has the effect `raiseSource`. -/
theorem raiseSetsTheActiveLatches : Obligations.RaiseSetsTheActiveLatches := fun src s =>
  completes_with_latches (t := raiseSource src s) rfl (raiseSource_eq src s) rfl (raiseSource_latch src s)

theorem exec_ack (c : CoreId) (src : Source) (hf : s.fill.get c = none) :
    exec (.ack (.core c) src) s = .next ((acknowledge c src s).done (.core c) .done) :=
  coreTxn_free 0x11 c s (fun c => completed (acknowledge c src s)) hf

theorem exec_seten (c : CoreId) (src : Source) (b : Bool) (hf : s.fill.get c = none) :
    exec (.seten (.core c) src b) s = .next ((setEnable c src b s).done (.core c) .done) :=
  coreTxn_free 0x12 c s (fun c => completed (setEnable c src b s)) hf

/-- Settles O12: `ACK` of an unheld core has the effect `acknowledge`. -/
theorem ackClearsOnlyTheCoresLatch : Obligations.AckClearsOnlyTheCoresLatch := fun c src s hf =>
  completes_with_latches (exec_ack c src hf) rfl rfl (acknowledge_latch c src s)

/-- Settles O13: `SETEN` of an unheld core has the effect `setEnable`. -/
theorem setenWritesOnlyTheCoresEnable : Obligations.SetenWritesOnlyTheCoresEnable := fun c src b s hf =>
  completes_with_latches (exec_seten c src b hf) rfl rfl (setEnable_latch c src b s)

/-! ## Blanking inputs -/

/-- An input that goes from `old` to `line` raises its source on its rising edge only. -/
theorem risingEdge_latch {src : Source} {b : State} (hsrc : src ≠ .vres) (hb : b.ib = s.ib) (line old : Bool)
    (c : CoreId) (x : Source) :
    (if line && !old then raiseSource src b else b).latch c x =
      if x = src ∧ line = true ∧ old = false then { s.latch c x with active := true } else s.latch c x := by
  have hl : b.latch c x = s.latch c x := by simp only [State.latch, hb]
  by_cases hrise : line = true ∧ old = false
  · simp [hrise, raiseSource_latch, hsrc, hl]
  · rw [if_neg (by simpa using hrise), if_neg (fun h => hrise h.2), hl]

theorem vblankLine_latch (line : Bool) (s : State) (c : CoreId) (x : Source) :
    (vblankLine line s).latch c x =
      if x = .vint ∧ line = true ∧ s.vblank = false then { s.latch c x with active := true } else s.latch c x :=
  risingEdge_latch (by decide) rfl line s.vblank c x

theorem hblankLine_latch (line : Bool) (s : State) (c : CoreId) (x : Source) :
    (hblankLine line s).latch c x =
      if x = .hint ∧ line = true ∧ s.hblank = false then { s.latch c x with active := true } else s.latch c x :=
  risingEdge_latch (by decide) rfl line s.hblank c x

/-- Settles O14: each input stores its line, and its latches are those of a rising edge. -/
theorem blankingEdgesRaiseTheirSource : Obligations.BlankingEdgesRaiseTheirSource := fun line s =>
  ⟨completes_with_latches (t := vblankLine line s) (b := { s with vblank := line }) rfl (vblankLine_eq line s)
      rfl (vblankLine_latch line s),
    completes_with_latches (t := hblankLine line s) (b := { s with hblank := line }) rfl (hblankLine_eq line s)
      rfl (hblankLine_latch line s)⟩

/-! ## Polls -/

/-- Settles O15: both tables compute. -/
theorem levelsAndVectorsAreTheTables : Obligations.LevelsAndVectorsAreTheTables := by
  unfold Obligations.LevelsAndVectorsAreTheTables
  decide

theorem exec_poll_delivers {c : CoreId} {m : BitVec 4} {src : Source} (hf : s.fill.get c = none)
    (hc : pollChoice c m s = some src) :
    exec (.poll (.core c) m) s = .next ((deliver c src s).done (.core c) (.interrupt src)) := by
  simp [exec, execPoll, hf, pollEffect, hc]

theorem pollChoice_vres (m : BitVec 4) (hp : s.pending .s .vres = true) : pollChoice .s m s = some .vres :=
  if_pos ⟨rfl, hp⟩

/-- Settles O16: the choice is VRES before any comparison with the mask, and its delivery clears its latch. -/
theorem pollDeliversVresUnmasked : Obligations.PollDeliversVresUnmasked := by
  intro m s hf hp
  have hlatch : ∀ d x, (deliver .s .vres s).latch d x =
      if d = .s ∧ x = .vres then { s.latch d x with active := false } else s.latch d x := fun d x => by
    simpa using deliver_latch .s .vres s d x
  exact completes_with_latches (b := { s with log := s.log ++ [Event.exception .s .vres 71] })
    (exec_poll_delivers hf (pollChoice_vres m hp)) (deliver_eq .s .vres s) rfl hlatch

/-- Settles O17: the choice is the highest pending level (`pollChoice_highest`), and a maskable source's
delivery is its callout alone. -/
theorem pollDeliversTheHighestLevel : Obligations.PollDeliversTheHighestLevel := by
  intro c m src s hf hv hsrc hp hlevel hhigh
  rw [exec_poll_delivers hf (pollChoice_highest c m s src hv hsrc hp hlevel hhigh), deliver_maskable c src s hsrc]

/-! ## Writes to `INT_MASK` and `INT_CLR` -/

theorem busWrite_intMask {c : CoreId} (ln : Lanes) (v : Half)
    (hd : decodeAddr (.int c) a s = some (.reg .intMask, off)) :
    busWrite (.int c) ln a v s = .done (writeIntMask c ln v s) :=
  busWrite_eq ln v hd

theorem busWrite_intClr {c : CoreId} {src : Source} (ln : Lanes) (v : Half)
    (hd : decodeAddr (.int c) a s = some (.reg (.intClr src), off)) :
    busWrite (.int c) ln a v s = .done (acknowledge c src s) :=
  busWrite_eq ln v hd

/-- Settles O35: the write has the effect `writeIntMask`. -/
theorem intMaskWriteSetsTheEnables : Obligations.IntMaskWriteSetsTheEnables := fun c u l a v _ s hf ha hd =>
  completes_with_latches (writeTxn_done (.int c) u l a v s _ hf ha (busWrite_intMask _ v hd))
    (writeIntMask_eq c _ v s) rfl (writeIntMask_latch c { u := u, l := l } v s)

/-- Under a well-formed configuration only a register with a view on the bus is decoded (30_encoding R127). -/
theorem viewOf_of_decodeAddr {reg : Reg} (hc : s.cfg.problem = none)
    (hd : decodeAddr p a s = some (.reg reg, off)) : viewOf reg p.bus .read ≠ .none := by
  obtain ⟨_, _, _, hview, _⟩ := Config.problem_none hc
  obtain ⟨e, he, hm, htarget, _⟩ := decodeAddr_some hd
  obtain ⟨_, _, hbus, _⟩ := (entryMatches_iff ..).mp hm
  have hok := List.all_eq_true.mp hview e he
  intro hnone
  simp [Entry.viewOk, ← htarget, hbus, hnone] at hok

/-- Settles O37: the write has the effect `acknowledge`, and the external bus has no view of the register. -/
theorem intClrWriteAcknowledges : Obligations.IntClrWriteAcknowledges := by
  intro c src u l a v off s hf ha hd
  obtain ⟨t, hdone, hframe, hlatch⟩ := completes_with_latches
    (writeTxn_done (.int c) u l a v s _ hf ha (busWrite_intClr _ v hd)) rfl rfl (acknowledge_latch c src s)
  exact ⟨t, hdone, hframe, hlatch, fun hc b o hext => viewOf_of_decodeAddr hc hext rfl⟩

/-! ## Reads that draw a free value -/

/-- A completed read call of a register whose read draws once. -/
theorem readTxn_draws {reg : Reg} {w : Half} (prior : Half) (hf : s.unheld p) (ha : callOk u l a)
    (hd : decodeAddr p a s = some (.reg reg, off))
    (hr : regRead p reg off s = .done (w, { s with draws := s.draws + 1 })) :
    exec (p.readTxn u l a prior) s =
      .next ({ s with
          draws := s.draws + 1
          log := s.log ++ [Event.read p.agent a (merge16 prior w { u := u, l := l })] }.done
        p.agent (.value (merge16 prior w { u := u, l := l }))) := by
  have htarget : targetRead p (.reg reg) off s = .done (some w, { s with draws := s.draws + 1 }) := by
    rw [targetRead_reg, hr, Result.map_done]
  exact readTxn_done p u l a prior _ s _ hf ha (busRead_value _ prior hd htarget)

/-- Settles O38: the read rule of each of the registers is a draw. -/
theorem unspecifiedReadsAreFree : Obligations.UnspecifiedReadsAreFree := by
  intro p u l a prior reg off s hf ha hd hreg
  have hdraw : regRead p reg off s = .done s.drawHalf := by
    obtain ⟨src, c, rfl, rfl⟩ | rfl | rfl | rfl | ⟨rfl, hdirty⟩ := hreg
    · rfl
    · cases p <;> rfl
    · cases p <;> rfl
    · cases p <;> rfl
    · rw [regRead_latch p .fillAddr off s (by cases p <;> rfl), readLatch, if_pos hdirty]
  exact readTxn_draws prior hf ha hd hdraw

/-! ## Reads of `INT_MASK` -/

/-- `FM` and `ADEN` at their positions, and the shown enables below them. -/
theorem intMaskValue_getLsbD (c : CoreId) (s : State) (w : Half) (hq : q < 16) :
    (intMaskValue c s w).getLsbD q =
      if q = s.cfg.fields.imFm then s.fm
      else if q = s.cfg.fields.imAden then s.aden
      else (allSources.foldl (showEnable c s) w).getLsbD q := by
  rw [intMaskValue, putBit_getLsbD _ _ _ _ hq, putBit_getLsbD _ _ _ _ hq]

theorem mem_allSources (x : Source) : x ∈ allSources := by cases x <;> decide

/-- Settles O36: the value is `intMaskValue` over the free value, whose positions are apart under a
well-formed configuration (`enablePos_disjoint`). -/
theorem intMaskReadShowsTheEnables : Obligations.IntMaskReadShowsTheEnables := by
  intro c u l a prior off s hf ha hc hd
  obtain ⟨hinj, hpos, hadenLt, hfmLt, hadenFm⟩ := enablePos_disjoint hc
  refine ⟨intMaskValue c s (Config.freeHalf s.draws), readTxn_draws (p := .int c) prior hf ha hd rfl,
    fun x q hx => ?_, ?_, ?_, fun q hq hother haden hfm => ?_⟩
  · obtain ⟨hq, haden, hfm⟩ := hpos x q hx
    rw [intMaskValue_getLsbD c s _ hq, if_neg hfm, if_neg haden]
    exact showEnables_own c s q hq x hx (fun y hy => hinj y x q hy hx) allSources _ (mem_allSources x)
  · rw [intMaskValue_getLsbD c s _ hadenLt, if_neg hadenFm, if_pos rfl]
  · rw [intMaskValue_getLsbD c s _ hfmLt, if_pos rfl]
  · rw [intMaskValue_getLsbD c s _ hq, if_neg hfm, if_neg haden]
    exact showEnables_other c s q hq allSources _ fun x _ => hother x

end Sys2Proof.Machine
end

section
/-! PROOF. The register writes that only store, the register accesses without a rule, and the core-state
transactions (20_memory R93; 41_bus_decoder R206, R210, R213 to R215, R225 to R227; 42_dreq_bridge R242,
R246; 43_framebuffer_arbiter R279, R281; 44_pwm R300, R301). -/

namespace Sys2Proof.Machine

variable {p : Port} {a : Addr} {s t : State} {i : Instr} {r : Reply} {l : Latch} {off : Nat}

/-- A transaction whose effect leaves the script to it completes. -/
theorem completes_of_exec (hx : exec i s = .next (t.done i.agent r)) (hs : t.script = s.script) :
    Completes i s r (t.done i.agent r) :=
  ⟨hx, rfl, by rw [done_script, hs]⟩

/-! ## Latches without a further effect -/

/-- The latches whose write does more than store the merged value. -/
def effectfulLatches : List Latch :=
  [.dreqCtrl, .dreqLen, .dreqFifo, .fillAddr, .fillData, .pwmLeft, .pwmRight, .pwmMono]

theorem writeLatch_stores (p : Port) (a : Addr) (ln : Lanes) (v : Half) (s : State)
    (hl : l ∉ effectfulLatches) : writeLatch p a l ln v s = .done (s.setReg l (merge16 (s.reg l) v ln)) := by
  cases l with
  | dreqCtrl | dreqLen | dreqFifo | fillAddr | fillData | pwmLeft | pwmRight | pwmMono =>
    exact absurd hl (by decide)
  | _ => rfl

/-- The bus may write the latch (30_encoding R127), and the write only stores. -/
def StoresOn (b : Bus) (l : Latch) : Prop :=
  viewOf (.latch l) b .write = .given ∧ l ∉ effectfulLatches

theorem storesOn_comm (b : Bus) (n : Fin 8) : StoresOn b (.comm n) := by
  cases b <;> exact ⟨rfl, by simp [effectfulLatches]⟩

theorem storesOn_both (b : Bus) :
    ∀ l ∈ [Latch.vdpMode, .fillLen, .fbCtrl, .pwmCtrl, .pwmCycle], StoresOn b l := by
  unfold StoresOn
  cases b <;> decide

theorem storesOn_host :
    ∀ l ∈ [Latch.adapterCtrl, .bankSelect, .dreqSrcHi, .dreqSrcLo, .dreqDstHi, .dreqDstLo], StoresOn .ext l := by
  unfold StoresOn
  decide

theorem busWrite_stores (ln : Lanes) (v : Half) (hd : decodeAddr p a s = some (.reg (.latch l), off))
    (hl : StoresOn p.bus l) : busWrite p ln a v s = .done (s.setReg l (merge16 (s.reg l) v ln)) := by
  obtain ⟨hview, hplain⟩ := hl
  rw [busWrite_latch ln v hd hview, writeLatch_stores p a ln v s hplain]

/-- Settles O33: each latch of the statement only stores on the port's bus, and the store is `setReg`. -/
theorem plainLatchWrites : Obligations.PlainLatchWrites := by
  intro p u l a v r off s hf ha hd hr
  have hstores : StoresOn p.bus r := by
    obtain ⟨n, rfl⟩ | hr | ⟨rfl, hr⟩ := hr
    · exact storesOn_comm p.bus n
    · exact storesOn_both p.bus r hr
    · exact storesOn_host r hr
  have hx := writeTxn_done p u l a v s _ hf ha (busWrite_stores _ v hd hstores)
  have hag : (p.writeTxn u l a v).agent = p.agent := by cases p <;> rfl
  rw [← hag] at hx
  exact ⟨_, completes_of_exec hx rfl, rfl, fun x => setReg_reg s r x _⟩

/-! ## Accesses without a rule -/

/-- A write to a register's `F` cell faults (20_memory R93). -/
theorem busWrite_unmodelled {reg : Reg} (ln : Lanes) (v : Half)
    (hd : decodeAddr p a s = some (.reg reg, off)) (hv : viewOf reg p.bus .write = .unmodelled) :
    busWrite p ln a v s = .fault (.unmodelled reg p.bus .write) := by
  simp [busWrite_eq ln v hd, targetWrite, regWrite, hv]

/-- A read of a register's `F` cell faults (20_memory R93). -/
theorem busRead_unmodelled {reg : Reg} (ln : Lanes) (prior : Half)
    (hd : decodeAddr p a s = some (.reg reg, off)) (hv : viewOf reg p.bus .read = .unmodelled) :
    busRead p ln a prior s = .fault (.unmodelled reg p.bus .read) := by
  simp [busRead, hd, targetRead_reg, regRead, hv]

theorem viewOf_int_write_unmodelled :
    ∀ l ∈ [Latch.bankSelect, .dreqCtrl, .dreqSrcHi, .dreqSrcLo, .dreqDstHi, .dreqDstLo, .dreqLen, .dreqFifo],
      viewOf (.latch l) .int .write = .unmodelled := by
  decide

theorem viewOf_dreqFifo_read (b : Bus) : viewOf (.latch .dreqFifo) b .read = .unmodelled := by
  cases b <;> rfl

/-- Settles O34: the cells of the statement are `F` cells of the access table. -/
theorem unmodelledAccessesFault : Obligations.UnmodelledAccessesFault := by
  intro p u l a v r off s hf ha hd
  constructor
  · rintro c rfl hr
    exact writeTxn_fault (.int c) u l a v s _ hf ha
      (busWrite_unmodelled _ v hd (viewOf_int_write_unmodelled r hr))
  · rintro rfl
    exact readTxn_fault p u l a v s _ hf ha (busRead_unmodelled _ v hd (viewOf_dreqFifo_read p.bus))

/-! ## Core state -/

theorem exec_bootexit (c : CoreId) (hf : s.fill.get c = none) :
    exec (.bootexit (.core c)) s = .next ((leaveBoot c s).done (.core c) .done) :=
  coreTxn_free 0x24 c s (fun c => completed (leaveBoot c s)) hf

theorem exec_cachecfg (c : CoreId) (b : Bool) (hf : s.fill.get c = none) :
    exec (.cachecfg (.core c) b) s = .next ((setCache c b s).done (.core c) .done) :=
  coreTxn_free 0x25 c s (fun c => completed (setCache c b s)) hf

theorem PerCore.get_set_other {α : Type} (x : PerCore α) (c : CoreId) (v : α) :
    (x.set c v).get c.other = x.get c.other := by
  rw [PerCore.get_set, if_neg c.other_ne]

/-- Settles O48: the effects `leaveBoot` and `setCache` each write the core's entry of one field. -/
theorem coreStateTransactions : Obligations.CoreStateTransactions := fun c b s hf =>
  ⟨⟨_, completes_of_exec (exec_bootexit c hf) rfl, rfl, PerCore.get_set_same s.bootMapped c false,
      PerCore.get_set_other s.bootMapped c false⟩,
    ⟨_, completes_of_exec (exec_cachecfg c b hf) rfl, rfl, PerCore.get_set_same s.cacheEn c b,
      PerCore.get_set_other s.cacheEn c b⟩⟩

end Sys2Proof.Machine
end

section
/-! PROOF. The DMA channels: their programming, and the drain of a poll that delivers nothing
(42_dreq_bridge R248 to R252; 30_encoding R126). -/

namespace Sys2Proof.Machine

variable {c : CoreId} {ch : Channel} {s t t1 t2 : State} {a : Addr} {off : Nat}

/-! ## Channel programming -/

theorem exec_dmacfg (c : CoreId) (ch : Channel) (f : DmaField) (v : Addr) (hf : s.fill.get c = none) :
    exec (.dmacfg (.core c) ch f v) s =
      .next ((s.setChan c ch (DmaChannel.program (s.chan c ch) f v)).done (.core c) .done) :=
  coreTxn_free 0x22 c s (fun c => completed (s.setChan c ch (DmaChannel.program (s.chan c ch) f v))) hf

/-- Settles O22: the effect of `DMACFG` is `setChan` of the programmed channel, field by field. -/
theorem dmacfgProgramsOneField : Obligations.DmacfgProgramsOneField := by
  intro c ch f v s hf
  refine ⟨_, completes_of_exec (exec_dmacfg c ch f v hf) rfl, rfl, fun d h => ?_⟩
  rw [done_chan, setChan_chan]
  cases f <;> rfl

theorem exec_dmard (c : CoreId) (ch : Channel) (f : DmaField) (hf : s.fill.get c = none) :
    exec (.dmard (.core c) ch f) s =
      .next ((s.addLog (.readDma c ch f (DmaChannel.field (s.chan c ch) f))).done (.core c)
        (.dmaValue (DmaChannel.field (s.chan c ch) f))) :=
  coreTxn_free 0x23 c s (fun c => .done (.dmaValue (DmaChannel.field (s.chan c ch) f),
    s.addLog (.readDma c ch f (DmaChannel.field (s.chan c ch) f)))) hf

/-- The packing of `ctrl`: enable, complete, size, autoInc from bit 0 up (30_encoding R126). -/
theorem field_ctrl_toNat (k : DmaChannel) :
    (DmaChannel.field k .ctrl).toNat =
      k.enable.toNat + 2 * k.complete.toNat + 4 * k.size.toNat + 16 * k.autoInc.toNat := by
  have hsize : k.size.toNat < 2 ^ 2 := k.size.isLt
  have henable : k.enable.toNat < 2 ^ 1 := Bool.toNat_lt k.enable
  have hcomplete : k.complete.toNat < 2 ^ 1 := Bool.toNat_lt k.complete
  have hautoInc : k.autoInc.toNat < 2 ^ 2 := k.autoInc.isLt
  simp only [DmaChannel.field, BitVec.toNat_append, BitVec.toNat_ofBool, BitVec.toNat_ofNat]
  rw [← Nat.shiftLeft_add_eq_or_of_lt henable, ← Nat.shiftLeft_add_eq_or_of_lt hcomplete,
    ← Nat.shiftLeft_add_eq_or_of_lt hsize, ← Nat.shiftLeft_add_eq_or_of_lt hautoInc]
  simp only [Nat.shiftLeft_eq]
  omega

/-- Settles O23: the value is `DmaChannel.field`, which packs `ctrl` as `field_ctrl_toNat` says. -/
theorem dmardReturnsOneField : Obligations.DmardReturnsOneField := by
  intro c ch f s hf
  refine ⟨_, exec_dmard c ch f hf, ?_⟩
  cases f with
  | src | dst | count => rfl
  | ctrl => exact field_ctrl_toNat (s.chan c ch)

/-! ## A drain that does not transfer -/

/-- A poll that delivers nothing answers as its drain does. -/
theorem exec_poll_of_drain {m : BitVec 4} {r : Reply} (hf : s.fill.get c = none) (hq : s.quiet c m)
    (h : drain c s = .done (r, t)) : exec (.poll (.core c) m) s = .next (t.done (.core c) r) := by
  rw [poll_quiet c m s hf hq, h, finish_done]

theorem drain_eq_drainOn (hon : s.drainsOn c ch) : drain c s = drainOn c ch s := by
  simp only [drain, drainChannel_drainsOn hon]

theorem drain_disabled (h : ∀ ch, (s.chan c ch).enable = false) : drain c s = .done (.noDrain, s) := by
  have h0 : (s.dma.get c).c0.enable = false := h .ch0
  have h1 : (s.dma.get c).c1.enable = false := h .ch1
  simp [drain, drainChannel, h0, h1]

theorem drainOn_short (c : CoreId) (ch : Channel) (h : s.fifo.length < 2) :
    drainOn c ch s = .done (.noDrain, s) := by
  unfold drainOn
  split
  · rename_i hfifo
    simp [hfifo] at h
  · rfl

theorem drain_short (c : CoreId) (h : s.fifo.length < 2) : drain c s = .done (.noDrain, s) := by
  unfold drain
  split
  · rfl
  · exact drainOn_short c _ h

theorem gated_of_dram (hd : decodeAddr (.int c) a s = some (.dram, off)) : gated c a s = s.engagedFb := by
  simp only [gated, hd]

theorem gated_of_palette (hd : decodeAddr (.int c) a s = some (.reg .palette, off)) :
    gated c a s = s.engagedPal := by
  simp only [gated, hd]

/-- A gated destination is checked after the count and the alignment, and pops nothing
(42_dreq_bridge R249). -/
theorem drainOn_gated (hn : (s.chan c ch).count ≠ 0#32) (hd : (s.chan c ch).dst.getLsbD 0 = false)
    (hg : (gated c (s.chan c ch).dst s || gated c ((s.chan c ch).dst + 2#32) s) = true) :
    drainOn c ch s = .done (.noDrain, s) := by
  unfold drainOn
  split
  · rw [if_neg hn, if_neg (Bool.eq_false_iff.mp hd), if_pos hg]
  · rfl

/-- Settles O20: each of the three reasons ends the drain with `NoDrain`. -/
theorem pollWithoutDrainChangesNothing : Obligations.PollWithoutDrainChangesNothing := by
  intro c m s hf hq hreason
  have hdrain : drain c s = .done (.noDrain, s) := by
    obtain hoff | hshort | ⟨ch, a, off, hon, hn, hd, ha, heng⟩ := hreason
    · exact drain_disabled hoff
    · exact drain_short c hshort
    · have hg : gated c a s = true := by
        obtain ⟨hdec, he⟩ | ⟨hdec, he⟩ := heng
        · rw [gated_of_dram hdec, he]
        · rw [gated_of_palette hdec, he]
      rw [drain_eq_drainOn hon]
      obtain rfl | rfl := ha <;> exact drainOn_gated hn hd (by simp [hg])
  exact exec_poll_of_drain hf hq hdrain

variable {hi lo : Half} {rest : List Half}

theorem drainOn_zeroCount (hfifo : s.fifo = hi :: lo :: rest) (hn : (s.chan c ch).count = 0#32) :
    drainOn c ch s = .fault .dmaZeroCount := by
  simp only [drainOn, hfifo, hn, if_true]

theorem drainOn_odd (hfifo : s.fifo = hi :: lo :: rest) (hn : (s.chan c ch).count ≠ 0#32)
    (hd : (s.chan c ch).dst.getLsbD 0 = true) : drainOn c ch s = .fault .misalignedCall := by
  simp only [drainOn, hfifo, if_neg hn, hd, if_true]

/-- A transfer ends with the fault of the first of its writes that faults. -/
theorem drainTransfer_fault {d : Addr} {e : Fault} (c : CoreId) (ch : Channel)
    (h : busWrite (.int c) Lanes.full d hi s = .fault e
      ∨ busWrite (.int c) Lanes.full d hi s = .done t
        ∧ busWrite (.int c) Lanes.full (d + 2#32) lo t = .fault e) :
    drainTransfer c ch d hi lo s = .fault e := by
  obtain h | ⟨h, h'⟩ := h
  · rw [drainTransfer, h, Result.bind_fault]
  · rw [drainTransfer, h, Result.bind_done, h', Result.map_fault]

/-- Settles O21: the checks of `drainOn` in their order, and then the writes of `drainTransfer`. -/
theorem drainFaults : Obligations.DrainFaults := by
  intro c m ch hi lo rest s hf hq hon hfifo
  rw [poll_quiet c m s hf hq]
  refine ⟨fun hn => ?_, fun hn hd => ?_, ?_⟩
  · rw [drain_eq_drainOn hon, drainOn_zeroCount hfifo hn, finish_fault]
  · rw [drain_eq_drainOn hon, drainOn_odd hfifo hn hd, finish_fault]
  · intro e t1 hn hd hg1 hg2 popped hw
    rw [drain_transfer hon hfifo hn hd hg1 hg2]
    exact congrArg (finish (.core c) s) (drainTransfer_fault c ch hw)

/-! ## A drain that transfers -/

theorem drainTransfer_done {d : Addr} (ch : Channel) (h1 : busWrite (.int c) Lanes.full d hi s = .done t1)
    (h2 : busWrite (.int c) Lanes.full (d + 2#32) lo t1 = .done t2) :
    drainTransfer c ch d hi lo s =
      .done (.drained ch, t2.setChan c ch (DmaChannel.afterTransfer (t2.chan c ch))) := by
  rw [drainTransfer, h1, Result.bind_done, h2, Result.map_done]

/-- An enabled channel after a transfer: it stays enabled unless this was its last (42_dreq_bridge R248). -/
theorem afterTransfer_eq {k : DmaChannel} (he : k.enable = true) :
    DmaChannel.afterTransfer k = { k with
      dst := k.dst + 4#32
      count := k.count - 1#32
      enable := k.count != 1#32
      complete := k.complete || k.count == 1#32 } := by
  have hlast : k.count - 1#32 = 0#32 ↔ k.count = 1#32 := by bv_omega
  unfold DmaChannel.afterTransfer
  by_cases h : k.count = 1#32
  · simp [h]
  · simp [hlast, h, he]

theorem Wrote.chan {p : Port} {ln : Lanes} {v : Half} (h : Wrote p ln a v s t) (d : CoreId) (x : Channel) :
    t.chan d x = s.chan d x := by
  rw [h.frame]; rfl

theorem Wrote.script {p : Port} {ln : Lanes} {v : Half} (h : Wrote p ln a v s t) : t.script = s.script := by
  rw [h.frame]

/-- The FIFO is the host's to write (42_dreq_bridge R246). -/
theorem Wrote.core_fifo {ln : Lanes} {v : Half} (h : Wrote (.int c) ln a v s t) : t.fifo = s.fifo := h.core.1

/-- Settles O19: the poll is the transfer, and a core's bus writes leave the channels, the script and the FIFO
alone. -/
theorem pollDrainMakesTwoInternalWrites : Obligations.PollDrainMakesTwoInternalWrites := by
  intro c m ch hi lo rest s t1 t2 hf hq hon hfifo hn hd hg1 hg2 hb1 hb2
  have hw1 := busWrite_done hb1
  have hw2 := busWrite_done hb2
  have hchan : ∀ d h, t2.chan d h = s.chan d h := fun d h => (hw2.chan d h).trans (hw1.chan d h)
  have hdrain : drain c s =
      .done (.drained ch, t2.setChan c ch (DmaChannel.afterTransfer (s.chan c ch))) := by
    rw [← hchan c ch, ← drainTransfer_done ch hb1 hb2]
    exact drain_transfer hon hfifo hn hd hg1 hg2
  refine ⟨_, completes_of_exec (exec_poll_of_drain hf hq hdrain) (hw2.script.trans hw1.script), rfl,
    hw2.core_fifo.trans hw1.core_fifo, fun d h => ?_⟩
  rw [done_chan, setChan_chan, afterTransfer_eq hon.1, hchan]

/-- Settles O18: the two internal writes store into SDRAM, which changes no decoding. -/
theorem pollDrainsTwoWordsToSdram : Obligations.PollDrainsTwoWordsToSdram := by
  intro c m ch hi lo rest o1 o2 s hf hq hon hfifo hn hd hdec1 hdec2
  have hg1 : gated c (s.chan c ch).dst s = false := by simp only [gated, hdec1]
  have hg2 : gated c ((s.chan c ch).dst + 2#32) s = false := by simp only [gated, hdec2]
  have decodes : ∀ q b mem a, decodeAddr (.int c) a { s with fifo := q, dreq := b, sdram := mem } =
      decodeAddr (.int c) a s := fun _ _ _ a => decodeAddr_congr _ a s _ rfl rfl rfl rfl
  obtain ⟨t, hdone, ht, _, hchan⟩ := pollDrainMakesTwoInternalWrites c m ch hi lo rest s _ _ hf hq hon hfifo
    hn hd hg1 hg2 (busWrite_eq Lanes.full hi ((decodes _ _ _ _).trans hdec1))
    (busWrite_eq Lanes.full lo ((decodes _ _ _ _).trans hdec2))
  have hsdram : t.sdram = memWrite (memWrite s.sdram o1 Lanes.full hi) o2 Lanes.full lo := by rw [ht]
  refine ⟨t, hdone, by rw [ht], fun x => ?_, hchan⟩
  rw [hsdram, memWrite_get, memWrite_get]
  simp [Lanes.full]

end Sys2Proof.Machine
end

section
/-! PROOF. The reads of the latches, and the host's writes of the DREQ registers (42_dreq_bridge R240 to R247;
43_framebuffer_arbiter R280, R281). -/

namespace Sys2Proof.Machine

variable {p : Port} {a : Addr} {s t : State} {r : Latch} {off : Nat} {v w : Half} {ln : Lanes}

/-! ## Reads of a latch -/

/-- A completed read call of a latch whose read leaves the state. -/
theorem readTxn_latch {u l : Bool} (prior : Half) (hf : s.unheld p) (ha : callOk u l a)
    (hdec : decodeAddr p a s = some (.reg (.latch r), off)) (hv : viewOf (.latch r) p.bus .read = .given)
    (hr : readLatch r s = (w, s)) :
    exec (p.readTxn u l a prior) s =
      .next ({ s with log := s.log ++ [Event.read p.agent a (merge16 prior w { u := u, l := l })] }.done
        p.agent (.value (merge16 prior w { u := u, l := l }))) := by
  have htarget : targetRead p (.reg (.latch r)) off s = .done (some w, s) := by
    rw [targetRead_reg, regRead_latch p r off s hv, hr, Result.map_done]
  exact readTxn_done p u l a prior _ s _ hf ha (busRead_value _ prior hdec htarget)

theorem readLatch_stored (hr : r ∉ [Latch.dreqCtrl, .dreqFifo, .pwmLeft, .pwmRight, .pwmMono])
    (hfill : r = .fillAddr → s.fillAddrDirty = false) : readLatch r s = (s.reg r, s) := by
  cases r with
  | dreqCtrl | dreqFifo | pwmLeft | pwmRight | pwmMono => exact absurd hr (by decide)
  | fillAddr => simp only [readLatch, hfill rfl, Bool.false_eq_true, if_false]
  | _ => rfl

/-- Each bus may read every latch but `ADAPTER_CTRL`, which the host reads, and `DREQ_FIFO`
(30_encoding R127). -/
theorem viewOf_read (hr : r ≠ .dreqFifo) (hp : r = .adapterCtrl → p = .ext) :
    viewOf (.latch r) p.bus .read = .given := by
  cases r with
  | adapterCtrl => rw [hp rfl]; rfl
  | dreqFifo => exact absurd rfl hr
  | _ => cases p <;> rfl

/-- Settles O32: each latch of the statement has a view and reads as stored. -/
theorem latchReads : Obligations.LatchReads := by
  intro p u l a prior r off s hf ha hd hr hadapter hfill
  have hne : r ≠ .dreqFifo := by rintro rfl; exact absurd hr (by decide)
  exact readTxn_latch prior hf ha hd (viewOf_read hne hadapter) (readLatch_stored hr hfill)

/-- Settles O40: the value is the stored one with `full` put at its position. -/
theorem dreqCtrlReadShowsFull : Obligations.DreqCtrlReadShowsFull := by
  intro p u l a prior off s hf ha hd
  refine ⟨putBit (s.reg .dreqCtrl) s.cfg.fields.dreqFull s.fifoFull,
    readTxn_latch prior hf ha hd (viewOf_read (by decide) (by simp)) rfl, fun q hq => ?_⟩
  rw [putBit_getLsbD _ _ _ _ hq]
  rfl

/-! ## Writes of `DREQ_CTRL` -/

/-- A core faults on a write of `DREQ_CTRL` or `DREQ_LEN` (42_dreq_bridge R246). -/
theorem coreWrite_dreq_faults {c : CoreId} {u l : Bool} (hr : r = .dreqCtrl ∨ r = .dreqLen)
    (hf : s.fill.get c = none) (ha : callOk u l a)
    (hdec : decodeAddr (.int c) a s = some (.reg (.latch r), off)) :
    exec (.wri (.core c) u l a v) s = .fault (.unmodelled (.latch r) .int .write) := by
  obtain ⟨hwrite, _⟩ := unmodelledAccessesFault (.int c) u l a v r off s hf ha hdec
  exact hwrite c rfl (by obtain rfl | rfl := hr <;> decide)

theorem writeDreqCtrl_armEmpty (hc : ln.covers s.cfg.fields.dreqActive = true)
    (hv : v.getLsbD s.cfg.fields.dreqActive = true) (hact : s.dreqActive = false)
    (hlen : s.reg .dreqLen = 0#16) : writeDreqCtrl ln v s = .fault .dreqArmZeroLength := by
  simp only [writeDreqCtrl, hc, hv, hact, hlen, if_true, Bool.false_eq_true, if_false]

theorem writeDreqCtrl_arm (hc : ln.covers s.cfg.fields.dreqActive = true)
    (hv : v.getLsbD s.cfg.fields.dreqActive = true) (hact : s.dreqActive = false)
    (hlen : s.reg .dreqLen ≠ 0#16) : writeDreqCtrl ln v s =
      .done (storeDreqCtrl (merge16 (s.reg .dreqCtrl) v ln) { s with remaining := s.reg .dreqLen }) := by
  simp only [writeDreqCtrl, hc, hv, hact, hlen, if_true, Bool.false_eq_true, if_false]

theorem writeDreqCtrl_disable (hc : ln.covers s.cfg.fields.dreqActive = true)
    (hv : v.getLsbD s.cfg.fields.dreqActive = false) : writeDreqCtrl ln v s =
      .done (storeDreqCtrl (merge16 (s.reg .dreqCtrl) v ln) { s with fifo := [], dreq := both false }) := by
  simp only [writeDreqCtrl, hc, hv, if_true, Bool.false_eq_true, if_false]

/-- A write that neither arms nor disables only stores (42_dreq_bridge R240). -/
theorem writeDreqCtrl_store
    (harm : ¬ (ln.covers s.cfg.fields.dreqActive = true ∧ v.getLsbD s.cfg.fields.dreqActive = true
      ∧ s.dreqActive = false))
    (hdis : ¬ (ln.covers s.cfg.fields.dreqActive = true ∧ v.getLsbD s.cfg.fields.dreqActive = false)) :
    writeDreqCtrl ln v s = .done (storeDreqCtrl (merge16 (s.reg .dreqCtrl) v ln) s) := by
  by_cases hc : ln.covers s.cfg.fields.dreqActive = true
  · have hv : v.getLsbD s.cfg.fields.dreqActive = true := by simpa [hc] using hdis
    have hact : s.dreqActive = true := by simpa [hc, hv] using harm
    simp only [writeDreqCtrl, hc, hv, hact, if_true]
  · simp only [writeDreqCtrl, hc, Bool.false_eq_true, if_false]

/-- Settles O39: the four outcomes of `writeDreqCtrl` in the order of the statement. -/
theorem dreqCtrlWriteArmsOrDisables : Obligations.DreqCtrlWriteArmsOrDisables := by
  refine ⟨fun c u l a v off s hf ha hd => coreWrite_dreq_faults (.inl rfl) hf ha hd, ?_⟩
  intro u l a v off s ha hd q covered stored i
  have hbus : busWrite .ext { u := u, l := l } a v s = writeDreqCtrl { u := u, l := l } v s :=
    busWrite_latch _ v hd rfl
  split_ifs with harm hlen hdis
  · obtain ⟨hc, hv, hact⟩ := harm
    exact writeTxn_fault .ext u l a v s _ trivial ha (hbus.trans (writeDreqCtrl_armEmpty hc hv hact hlen))
  · obtain ⟨hc, hv, hact⟩ := harm
    exact writeTxn_done .ext u l a v s _ trivial ha (hbus.trans (writeDreqCtrl_arm hc hv hact hlen))
  · obtain ⟨hc, hv⟩ := hdis
    exact writeTxn_done .ext u l a v s _ trivial ha (hbus.trans (writeDreqCtrl_disable hc hv))
  · exact writeTxn_done .ext u l a v s _ trivial ha (hbus.trans (writeDreqCtrl_store harm hdis))

/-! ## Writes of `DREQ_LEN` and `DREQ_FIFO` -/

/-- Settles O41: `writeDreqLen` faults on a zero length while active, and else empties the FIFO. -/
theorem dreqLenWriteRestarts : Obligations.DreqLenWriteRestarts := by
  refine ⟨fun c u l a v off s hf ha hd => coreWrite_dreq_faults (.inr rfl) hf ha hd, ?_⟩
  intro u l a v off s ha hd w
  have hbus : busWrite .ext { u := u, l := l } a v s = writeDreqLen w s := busWrite_latch _ v hd rfl
  split_ifs with hzero
  · exact writeTxn_fault .ext u l a v s _ trivial ha (hbus.trans (if_pos hzero))
  · exact writeTxn_done .ext u l a v s _ trivial ha (hbus.trans (if_neg hzero))

/-- A transfer is active and the FIFO has room for one more of its words (42_dreq_bridge R245). -/
def State.takesWord (s : State) : Prop := s.dreqActive = true ∧ s.fifo.length < s.cfg.dreqDepth

theorem setReg_dreqActive (hr : r ≠ .dreqCtrl) : (s.setReg r w).dreqActive = s.dreqActive := by
  simp [State.dreqActive, hr.symm]

theorem writeDreqFifo_queue (p : Port) (a : Addr) (w : Half) (h : s.takesWord) :
    writeDreqFifo p a w s = setFifo (s.fifo ++ [w])
      (dropActiveAtZero { s.setReg .dreqFifo w with remaining := s.remaining - 1#16 }) := by
  have hact : (s.setReg .dreqFifo w).dreqActive = s.dreqActive := setReg_dreqActive (by decide)
  exact if_pos ⟨hact.trans h.1, h.2⟩

theorem writeDreqFifo_drop (p : Port) (a : Addr) (w : Half) (h : ¬ s.takesWord) :
    writeDreqFifo p a w s = (s.setReg .dreqFifo w).addLog (.droppedWrite .fifoInactiveOrFull p.agent a) := by
  have hact : (s.setReg .dreqFifo w).dreqActive = s.dreqActive := setReg_dreqActive (by decide)
  exact if_neg fun hroom => h ⟨hact ▸ hroom.1, hroom.2⟩

theorem setFifo_append (q : List Half) (w : Half) (s : State) :
    setFifo (q ++ [w]) s = { s with fifo := q ++ [w], dreq := both true } := by
  have hne : (!(q ++ [w]).isEmpty) = true := by simp
  rw [← hne]
  rfl

theorem dropActiveAtZero_eq (s : State) : dropActiveAtZero s = { s with regs := (dropActiveAtZero s).regs } := by
  unfold dropActiveAtZero
  split <;> rfl

theorem dropActiveAtZero_reg (n : Half) (hr : r ≠ .dreqCtrl) :
    (dropActiveAtZero { s with remaining := n }).reg r = s.reg r := by
  unfold dropActiveAtZero
  split
  · exact (setReg_reg ..).trans (if_neg hr)
  · rfl

/-- `active` falls exactly when no word remains (42_dreq_bridge R245). -/
theorem dropActiveAtZero_dreqCtrl {q : Nat} (n : Half) (hq : q < 16) :
    ((dropActiveAtZero { s with remaining := n }).reg .dreqCtrl).getLsbD q =
      if q = s.cfg.fields.dreqActive ∧ n = 0#16 then false else (s.reg .dreqCtrl).getLsbD q := by
  unfold dropActiveAtZero
  by_cases hn : n = 0#16
  · rw [if_pos hn, setReg_reg, if_pos rfl, putBit_getLsbD _ _ _ _ hq]
    simp only [hn, and_true]
    rfl
  · rw [if_neg hn, if_neg fun h => hn h.2]
    rfl

/-- Settles O42: the two outcomes of `writeDreqFifo`; the last word is the one that leaves a count of 0. -/
theorem dreqFifoWriteQueuesOrDrops : Obligations.DreqFifoWriteQueuesOrDrops := by
  intro u l a v off s ha hd w
  have hx : exec (.wrx .host u l a v) s = .next ((writeDreqFifo .ext a w s).done .host .done) :=
    writeTxn_done .ext u l a v s _ trivial ha (busWrite_latch _ v hd rfl)
  split_ifs with hroom
  · rw [writeDreqFifo_queue .ext a w hroom, setFifo_append] at hx
    have hlast : s.remaining - 1#16 = 0#16 ↔ s.remaining = 1#16 := by bv_omega
    refine ⟨_, completes_of_exec hx ?_, ?_, fun x hfifo hctrl => ?_, ?_, fun q hq => ?_⟩
    · rw [dropActiveAtZero_eq]
      rfl
    · rw [dropActiveAtZero_eq]
      rfl
    · exact (dropActiveAtZero_reg _ hctrl).trans ((setReg_reg ..).trans (if_neg hfifo))
    · exact (dropActiveAtZero_reg _ (by decide)).trans ((setReg_reg ..).trans (if_pos rfl))
    · refine (dropActiveAtZero_dreqCtrl _ hq).trans ?_
      simp [hlast]
  · rw [hx, writeDreqFifo_drop .ext a w hroom]
    rfl

end Sys2Proof.Machine
end

section
/-! PROOF. The DREQ FIFO changes at its two ends only: which transaction and which register make each change
(10_state R40; 42_dreq_bridge R253, R254). -/

namespace Sys2Proof.Machine

variable {p : Port} {a : Addr} {s t : State} {i : Instr} {r : Reply} {v w : Half} {ln : Lanes}

/-! ## Host writes -/

theorem writeDreqCtrl_fifo (h : writeDreqCtrl ln v s = .done t) : t.fifo = s.fifo ∨ t.fifo = [] := by
  unfold writeDreqCtrl at h
  simp only at h
  split at h
  · split at h
    · split at h
      · cases h; exact .inl rfl
      · split at h
        · simp at h
        · cases h; exact .inl rfl
    · cases h; exact .inr rfl
  · cases h; exact .inl rfl

theorem writeDreqLen_fifo (h : writeDreqLen w s = .done t) : t.fifo = [] := by
  unfold writeDreqLen at h
  split at h
  · simp at h
  · cases h; rfl

theorem writeFillData_fifo (h : writeFillData p w s = .done t) : t.fifo = s.fifo := by
  unfold writeFillData at h
  simp only at h
  split at h
  · simp at h
  · cases p <;> (cases h; rfl)

theorem writeDreqFifo_fifo (p : Port) (a : Addr) (w : Half) (s : State) :
    (writeDreqFifo p a w s).fifo = s.fifo ∨ s.takesWord ∧ (writeDreqFifo p a w s).fifo = s.fifo ++ [w] := by
  by_cases h : s.takesWord
  · exact .inr ⟨h, by rw [writeDreqFifo_queue p a w h]; rfl⟩
  · exact .inl (by rw [writeDreqFifo_drop p a w h]; rfl)

theorem pushSample_fifo (p : Port) (a : Addr) (side : Side) (w : Half) (s : State) :
    (pushSample p a side w s).fifo = s.fifo := by
  unfold pushSample
  split <;> rfl

/-- A write to any other latch leaves the FIFO alone. -/
theorem writeLatch_fifo {l : Latch} (hl : l ∉ [Latch.dreqCtrl, .dreqLen, .dreqFifo])
    (h : writeLatch p a l ln v s = .done t) : t.fifo = s.fifo := by
  cases l with
  | dreqCtrl | dreqLen | dreqFifo => exact absurd hl (by decide)
  | fillData => exact writeFillData_fifo h
  | pwmLeft | pwmRight => cases h; exact pushSample_fifo ..
  | pwmMono => cases h; exact (pushSample_fifo ..).trans (pushSample_fifo ..)
  | _ => cases h; rfl

/-- The host's write at `a` is one to `DREQ_CTRL` or `DREQ_LEN` and empties the FIFO. -/
def HostEmpties (a : Addr) (s t : State) : Prop :=
  t.fifo = [] ∧ ∃ l off, (l = Latch.dreqCtrl ∨ l = Latch.dreqLen)
    ∧ decodeAddr .ext a s = some (.reg (.latch l), off)

/-- The host's write at `a` is one to `DREQ_FIFO` and appends its merged word. -/
def HostAppends (ln : Lanes) (a : Addr) (v : Half) (s t : State) : Prop :=
  s.takesWord ∧ ∃ off, decodeAddr .ext a s = some (.reg (.latch .dreqFifo), off)
    ∧ t.fifo = s.fifo ++ [merge16 (s.reg .dreqFifo) v ln]

theorem Wrote.host_fifo (h : Wrote .ext ln a v s t) :
    t.fifo = s.fifo ∨ HostEmpties a s t ∨ HostAppends ln a v s t := by
  cases h with
  | latch l off t hd hv hl =>
    by_cases hdreq : l ∈ [Latch.dreqCtrl, .dreqLen, .dreqFifo]
    · obtain rfl | rfl | rfl : l = .dreqCtrl ∨ l = .dreqLen ∨ l = .dreqFifo := by simpa using hdreq
      · exact (writeDreqCtrl_fifo hl).imp_right fun he => .inl ⟨he, .dreqCtrl, off, .inl rfl, hd⟩
      · exact .inr (.inl ⟨writeDreqLen_fifo hl, .dreqLen, off, .inr rfl, hd⟩)
      · cases hl
        exact (writeDreqFifo_fifo ..).imp_right fun ⟨hroom, hq⟩ => .inr ⟨hroom, off, hd, hq⟩
    · exact .inl (writeLatch_fifo hdreq hl)
  | intMask c hp => cases hp
  | _ => exact .inl rfl

/-! ## Transactions -/

/-- A drain takes the two oldest words or none; the writes that it makes leave the rest alone. -/
theorem drain_fifo {c : CoreId} (h : drain c s = .done (r, t)) :
    t.fifo = s.fifo ∨ ∃ hi lo, s.fifo = hi :: lo :: t.fifo := by
  obtain ⟨_, rfl⟩ | ⟨ch, hi, lo, rest, t1, t2, _, _, hfifo, _, _, _, _, hw1, hw2, rfl⟩ := drain_done h
  · exact .inl rfl
  · have hrest : t2.fifo = rest := hw2.core_fifo.trans hw1.core_fifo
    exact .inr ⟨hi, lo, by rw [setChan_fifo, hrest, hfifo]⟩

/-- The four ways in which a transaction leaves the FIFO (42_dreq_bridge R253). -/
theorem Ran.fifo (h : Ran i s r t) :
    t.fifo = s.fifo
    ∨ (t.fifo = [] ∧ ∃ kind, i = .reset .env kind)
    ∨ (∃ u l a v, i = .wrx .host u l a v ∧ (HostEmpties a s t ∨ HostAppends { u := u, l := l } a v s t))
    ∨ ∃ c m hi lo, i = .poll (.core c) m ∧ s.fifo = hi :: lo :: t.fifo := by
  cases h with
  | read p u l a prior v s t hf ha hb =>
    obtain ⟨k, e, rfl, _⟩ := busRead_done hb
    exact .inl rfl
  | write p u l a v s t hf ha hw =>
    cases p with
    | ext => exact hw.host_fifo.imp_right fun hq => .inr (.inl ⟨u, l, a, v, rfl, hq⟩)
    | int c => exact .inl hw.core_fifo
  | raise src s => exact .inl (by rw [raiseSource_eq])
  | interrupt c m src s hp => exact .inl (by rw [deliver_eq])
  | drain c m r s t hq hd =>
    exact (drain_fifo hd).imp_right fun ⟨hi, lo, hfifo⟩ => .inr (.inr ⟨c, m, hi, lo, rfl, hfifo⟩)
  | vblank line s => exact .inl (by rw [vblankLine_eq])
  | hblank line s => exact .inl (by rw [hblankLine_eq])
  | pwmclk s => exact .inl (by rw [pwmClock_frame])
  | reset kind s => exact .inr (.inl ⟨by cases kind <;> rfl, kind, rfl⟩)
  | _ => exact .inl rfl

/-- Settles O58: a transaction that holds leaves the FIFO, and `Ran.fifo` says what one that runs does. -/
theorem fifoChangesOnlyAtItsEnds : Obligations.FifoChangesOnlyAtItsEnds := by
  intro i s t h
  obtain ⟨hd, rfl⟩ | ⟨r, x, hr, rfl⟩ := exec_next h
  · exact .inl rfl
  · obtain hsame | ⟨hempty, hreset⟩ | ⟨u, l, a, v, rfl, hwrite⟩ | hpoll := hr.fifo
    · exact .inl hsame
    · exact .inr (.inl ⟨hempty, .inl hreset⟩)
    · obtain ⟨hempty, reg, off, hreg, hdec⟩ | ⟨⟨hact, hroom⟩, off, hdec, hq⟩ := hwrite
      · exact .inr (.inl ⟨hempty, .inr ⟨u, l, a, v, reg, off, rfl, hreg, hdec⟩⟩)
      · exact .inr (.inr (.inl ⟨hact, hroom, u, l, a, v, off, rfl, hdec, hq⟩))
    · exact .inr (.inr (.inr hpoll))

end Sys2Proof.Machine
end

section
/-! PROOF. What the engagement of the framebuffer and the palette, and a fill in flight, keep a core from:
it changes no engaged resource, and holds for these two reasons only (43_framebuffer_arbiter R275, R278,
R285, R288). -/

namespace Sys2Proof.Machine

variable {s t u : State} {i : Instr} {r : Reply} {c : CoreId} {op : BitVec 8} {ag : Agent} {hd : Hold}

/-! ## Engaged resources -/

/-- `t` has the engaged resources of `s` as they were, and the same engagement. -/
structure KeepsEngaged (s t : State) : Prop where
  dram       : s.engagedFb = true → t.dram = s.dram
  palette    : s.engagedPal = true → t.palette = s.palette
  engagedFb  : t.engagedFb = s.engagedFb
  engagedPal : t.engagedPal = s.engagedPal

theorem KeepsEngaged.trans (h : KeepsEngaged s t) (h' : KeepsEngaged t u) : KeepsEngaged s u where
  dram he := (h'.dram (h.engagedFb.trans he)).trans (h.dram he)
  palette he := (h'.palette (h.engagedPal.trans he)).trans (h.palette he)
  engagedFb := h'.engagedFb.trans h.engagedFb
  engagedPal := h'.engagedPal.trans h.engagedPal

/-- An update of neither resource, of no latch and of no blanking input. -/
theorem KeepsEngaged.of_eq (ht : t = { s with
      ib := t.ib, dma := t.dma, fifo := t.fifo, dreq := t.dreq, bootMapped := t.bootMapped
      cacheEn := t.cacheEn, log := t.log, draws := t.draws }) : KeepsEngaged s t := by
  rw [ht]
  exact ⟨fun _ => rfl, fun _ => rfl, rfl, rfl⟩

theorem Wrote.keepsEngaged {ln : Lanes} {a : Addr} {v : Half} (h : Wrote (.int c) ln a v s t) :
    KeepsEngaged s t := by
  obtain ⟨_, _, _, _, _, _, _, hdram, hpalette⟩ := h.core
  obtain ⟨hfb, hpal⟩ := h.core_engaged
  exact ⟨hdram, hpalette, hfb, hpal⟩

/-- Both writes of a drain are gated as a core's bus writes are. -/
theorem drain_keepsEngaged (h : drain c s = .done (r, t)) : KeepsEngaged s t := by
  obtain ⟨_, rfl⟩ | ⟨ch, hi, lo, rest, t1, t2, _, _, _, _, _, _, _, hw1, hw2, rfl⟩ := drain_done h
  · exact .of_eq rfl
  · have hpop : KeepsEngaged s (setFifo rest s) := .of_eq rfl
    exact ((hpop.trans hw1.keepsEngaged).trans hw2.keepsEngaged).trans (.of_eq rfl)

theorem Port.eq_int_of_agent {p : Port} (h : p.agent = .core c) : p = .int c := by
  cases p with
  | ext => cases h
  | int d => cases h; rfl

@[simp] theorem writeTxn_agent (p : Port) (u l : Bool) (a : Addr) (v : Half) :
    (p.writeTxn u l a v).agent = p.agent := by
  cases p <;> rfl

/-- A core reaches the banks and the palette by its bus writes, its drain and its fill, and each is gated
(43_framebuffer_arbiter R288). -/
theorem Ran.keepsEngaged (h : Ran i s r t) (hi : i.agent = .core c) : KeepsEngaged s t := by
  cases h with
  | read p u l a prior v s t hf ha hb =>
    obtain ⟨k, e, rfl, _⟩ := busRead_done hb
    exact .of_eq rfl
  | write p u l a v s t hf ha hw =>
    rw [writeTxn_agent] at hi
    cases Port.eq_int_of_agent hi
    exact hw.keepsEngaged
  | interrupt d m src s hp => exact .of_eq (by rw [deliver_eq])
  | drain d m r s t hq hd => exact drain_keepsEngaged hd
  | fillstep d f s hf hoff => exact ⟨fun hon => absurd hon (by simp [hoff]), fun _ => rfl, rfl, rfl⟩
  | raise | vblank | hblank | pwmclk | reset | serialize => cases hi
  | _ => exact .of_eq rfl

/-- Settles O56: a transaction that holds changes neither resource, and one that runs keeps what is
engaged (`Ran.keepsEngaged`). -/
theorem engagementExcludesTheCores : Obligations.EngagementExcludesTheCores := by
  intro i c s t hi h
  obtain ⟨hd, rfl⟩ | ⟨r, u, hr, rfl⟩ := exec_next h
  · exact ⟨fun _ => rfl, fun _ => rfl⟩
  · have hk := hr.keepsEngaged hi
    exact ⟨hk.dram, hk.palette⟩

/-! ## Why a transaction holds -/

/-- The hold is one of a write to an engaged resource (60_exceptions R336). -/
def Hold.isWriteEngaged : Hold → Prop
  | .writeEngaged _ _ => True
  | .fillBusy _ => False

theorem gateWrite_held {p : Port} {res : Resource} {after : State}
    (h : gateWrite p res s after = .held hd) : hd.isWriteEngaged := by
  unfold gateWrite at h
  split at h
  · cases h
  · split at h <;> cases h
    trivial

/-- No register's write rule holds, nor does the fill of a `FILL_DATA` write. -/
theorem writeLatch_ne_held (p : Port) (a : Addr) (l : Latch) (ln : Lanes) (v : Half) (s : State) (hd : Hold) :
    writeLatch p a l ln v s ≠ .held hd := by
  intro h
  cases l with
  | dreqCtrl =>
    simp only [writeLatch, writeDreqCtrl] at h
    split_ifs at h
  | dreqLen =>
    simp only [writeLatch, writeDreqLen] at h
    split_ifs at h
  | fillData =>
    simp only [writeLatch, writeFillData] at h
    split at h
    · cases h
    · cases p <;> cases h
  | _ => cases h

/-- A bus write holds at an engaged framebuffer or palette only (43_framebuffer_arbiter R275, R278). -/
theorem busWrite_held {p : Port} {ln : Lanes} {a : Addr} {v : Half} (h : busWrite p ln a v s = .held hd) :
    hd.isWriteEngaged := by
  unfold busWrite at h
  split at h
  · cases h
  · rename_i tg off hdec
    cases tg with
    | reg x =>
      simp only [targetWrite, regWrite] at h
      split at h
      · cases h
      · cases h
      · split at h
        · exact (writeLatch_ne_held _ _ _ _ _ _ _ h).elim
        · cases h
        · cases h
        · cases h
        · cases h
        · exact gateWrite_held h
    | dram => exact gateWrite_held h
    | cache => cases p <;> cases h
    | _ => cases h

theorem coreSpace_ne_held (p : Port) (f : CoreId → Option Half) (s : State) (hd : Hold) :
    coreSpace p f s ≠ .held hd := by
  cases p <;> exact fun h => by cases h

theorem regRead_ne_held (p : Port) (x : Reg) (off : Nat) (s : State) (hd : Hold) :
    regRead p x off s ≠ .held hd := by
  intro h
  unfold regRead at h
  split at h
  · cases h
  · cases h
  · split at h <;> cases h

theorem Result.map_eq_held {α β : Type} {f : α → β} {x : Result α} (h : x.map f = .held hd) :
    x = .held hd := by
  cases x <;> cases h
  rfl

theorem Result.bind_eq_held {α β : Type} {f : α → Result β} {x : Result α} (h : x.bind f = .held hd) :
    x = .held hd ∨ ∃ y, x = .done y ∧ f y = .held hd := by
  cases x with
  | done y => exact .inr ⟨y, rfl, h⟩
  | held e => cases h; exact .inl rfl
  | fault e | refused e => cases h

/-- A bus read never holds (43_framebuffer_arbiter R273). -/
theorem busRead_ne_held (p : Port) (ln : Lanes) (a : Addr) (prior : Half) (s : State) (hd : Hold) :
    busRead p ln a prior s ≠ .held hd := by
  intro h
  unfold busRead at h
  split at h
  · cases h
  · rename_i tg off hdec
    have ht : targetRead p tg off s = .held hd := Result.map_eq_held h
    cases tg with
    | reg x => exact regRead_ne_held p x off s hd (Result.map_eq_held ht)
    | boot | cache => exact coreSpace_ne_held _ _ _ _ ht
    | _ => cases ht

/-- A drain holds if one of its writes does. -/
theorem drain_held (h : drain c s = .held hd) : hd.isWriteEngaged := by
  unfold drain at h
  split at h
  · cases h
  · unfold drainOn at h
    split at h
    · split_ifs at h
      obtain h1 | ⟨t1, _, h2⟩ := Result.bind_eq_held h
      · exact busWrite_held h1
      · exact busWrite_held (Result.map_eq_held h2)
    · cases h

/-- The effect answers no hold but that of a write to an engaged resource. -/
def HoldsOnlyEngaged : Result (Reply × State) → Prop
  | .done y => y.1.isHeld = false
  | .held hd => hd.isWriteEngaged
  | .fault _ => True
  | .refused _ => True

theorem HoldsOnlyEngaged.map {α : Type} {f : α → Reply × State} {x : Result α}
    (hf : ∀ y, (f y).1.isHeld = false) (hx : ∀ hd, x = .held hd → hd.isWriteEngaged) :
    HoldsOnlyEngaged (x.map f) := by
  cases x with
  | done y => exact hf y
  | held hd => exact hx hd rfl
  | fault e | refused e => trivial

theorem HoldsOnlyEngaged.checkedCall {x : Result (Reply × State)} (ln : Lanes) (a : Addr)
    (hx : HoldsOnlyEngaged x) : HoldsOnlyEngaged (checkedCall ln a x) := by
  unfold Machine.checkedCall
  split
  · trivial
  · split
    · exact hx
    · trivial

theorem readCall_holdsOnlyEngaged (p : Port) (ln : Lanes) (a : Addr) (prior : Half) (s : State) :
    HoldsOnlyEngaged (readCall p ln a prior s) :=
  .checkedCall ln a (.map (fun _ => rfl) fun hd h => (busRead_ne_held p ln a prior s hd h).elim)

theorem writeCall_holdsOnlyEngaged (p : Port) (ln : Lanes) (a : Addr) (v : Half) (s : State) :
    HoldsOnlyEngaged (writeCall p ln a v s) :=
  .checkedCall ln a (.map (fun _ => rfl) fun _ h => busWrite_held h)

theorem drain_holdsOnlyEngaged (c : CoreId) (s : State) : HoldsOnlyEngaged (drain c s) := by
  cases h : drain c s with
  | done y =>
    obtain ⟨hr, _⟩ | ⟨_, _, _, _, _, _, hr, _⟩ := drain_done h
    · rw [HoldsOnlyEngaged, hr]; rfl
    · rw [HoldsOnlyEngaged, hr]; rfl
  | held hd => exact drain_held h
  | fault e | refused e => trivial

theorem pollEffect_holdsOnlyEngaged (c : CoreId) (m : BitVec 4) (s : State) :
    HoldsOnlyEngaged (pollEffect c m s) := by
  unfold pollEffect
  split
  · rfl
  · exact drain_holdsOnlyEngaged c s

theorem fillStep_holdsOnlyEngaged (c : CoreId) (s : State) : HoldsOnlyEngaged (fillStep c s) := by
  unfold fillStep
  split
  · rfl
  · split
    · trivial
    · rfl

theorem HoldsOnlyEngaged.of_finish {x : Result (Reply × State)} (hx : HoldsOnlyEngaged x)
    (h : finish ag s x = .next t) (hr : t.reply = some (ag, .held hd)) : hd.isWriteEngaged := by
  obtain ⟨a, u, rfl, rfl⟩ | ⟨e, rfl, rfl⟩ := finish_next h
  · cases hr
    cases hx
  · cases hr
    exact hx

theorem coreTxn_held {k : CoreId → Result (Reply × State)} (h : coreTxn op ag s k = .next t)
    (hr : t.reply = some (ag, .held hd)) (hk : ∀ c, HoldsOnlyEngaged (k c)) :
    hd.isWriteEngaged ∨ ∃ c, ag = .core c ∧ hd = .fillBusy c := by
  cases ag with
  | host | env => cases h
  | core c =>
    cases hf : s.fill.get c with
    | none =>
      rw [coreTxn_free op c s k hf] at h
      exact .inl ((hk c).of_finish h hr)
    | some f =>
      rw [coreTxn_busy op c s k f hf] at h
      cases h
      cases hr
      exact .inr ⟨c, rfl, rfl⟩

theorem fillTxn_held {k : CoreId → Result (Reply × State)} (h : fillTxn op ag s k = .next t)
    (hr : t.reply = some (ag, .held hd)) (hk : ∀ c, HoldsOnlyEngaged (k c)) : hd.isWriteEngaged := by
  cases ag with
  | host | env => cases h
  | core c => exact (hk c).of_finish h hr

theorem hostTxn_held {x : Result (Reply × State)} (h : hostTxn op ag s x = .next t)
    (hr : t.reply = some (ag, .held hd)) (hx : HoldsOnlyEngaged x) : hd.isWriteEngaged := by
  cases ag with
  | core c | env => cases h
  | host => exact hx.of_finish h hr

theorem envTxn_held {x : Result (Reply × State)} (h : envTxn op ag s x = .next t)
    (hr : t.reply = some (ag, .held hd)) (hx : HoldsOnlyEngaged x) : hd.isWriteEngaged := by
  cases ag with
  | core c | host => cases h
  | env => exact hx.of_finish h hr

/-- A transaction holds at an engaged resource or at its own core's fill in flight, and for no other reason
(60_exceptions R336). -/
theorem Holds.cause (h : Holds i s hd) : hd.isWriteEngaged ∨ ∃ c, i.agent = .core c ∧ hd = .fillBusy c := by
  unfold Holds at h
  cases i with
  | rdi => exact coreTxn_held h rfl fun _ => readCall_holdsOnlyEngaged ..
  | wri => exact coreTxn_held h rfl fun _ => writeCall_holdsOnlyEngaged ..
  | poll => exact coreTxn_held h rfl fun _ => pollEffect_holdsOnlyEngaged ..
  | ack | seten | dmacfg | dmard | bootexit | cachecfg => exact coreTxn_held h rfl fun _ => rfl
  | fillstep => exact .inl (fillTxn_held h rfl fun _ => fillStep_holdsOnlyEngaged ..)
  | rdx => exact .inl (hostTxn_held h rfl (readCall_holdsOnlyEngaged ..))
  | wrx => exact .inl (hostTxn_held h rfl (writeCall_holdsOnlyEngaged ..))
  | raise | vblank | hblank | pwmclk | reset | serialize => exact .inl (envTxn_held h rfl rfl)

/-- Each transaction of a core but `FILLSTEP` waits for the core's fill (30_encoding R122). -/
theorem exec_eq_coreTxn (s : State) (hadm : Instr.admitted i = true) (hi : i.agent = .core c)
    (hne : i ≠ .fillstep (.core c)) : ∃ op k, exec i s = coreTxn op i.agent s k := by
  cases i with
  | fillstep ag => cases hi; exact absurd rfl hne
  | rdx | wrx | raise | vblank | hblank | pwmclk | reset | serialize => cases hi; cases hadm
  | _ => exact ⟨_, _, rfl⟩

/-- A core's own fill holds it (43_framebuffer_arbiter R285). -/
theorem holds_fillBusy {f : Fill} (hf : s.fill.get c = some f) (hadm : Instr.admitted i = true)
    (hi : i.agent = .core c) (hne : i ≠ .fillstep (.core c)) : Holds i s (.fillBusy c) := by
  obtain ⟨op, k, hx⟩ := exec_eq_coreTxn s hadm hi hne
  rw [Holds, hx, hi, coreTxn_busy op c s k f hf]

/-- Settles O10: the fill holds its core, and `FillBusy` names the agent that it holds (`Holds.cause`). -/
theorem fillInFlightHoldsItsCore : Obligations.FillInFlightHoldsItsCore := by
  intro c f i s hf
  refine ⟨holds_fillBusy hf, fun hne h => ?_⟩
  obtain hengaged | ⟨d, hd, hbusy⟩ := h.cause
  · exact hengaged
  · cases hbusy
    exact hne hd

end Sys2Proof.Machine
end

section
/-! PROOF. The accesses of an agent that no fill in flight holds to the RAM windows, the framebuffer and the
palette (20_memory R88, R92; 43_framebuffer_arbiter R272 to R278). -/

namespace Sys2Proof.Machine

variable {p : Port} {u l : Bool} {a : Addr} {v : Half} {s t : State} {tg : Target} {off : Nat} {c : CoreId}

/-! ## Reads of RAM -/

/-- The access bank is the one that is not selected (10_state R52). -/
theorem acc_eq (s : State) :
    s.acc = if (s.reg .fbCtrl).getLsbD s.cfg.fields.fs then .b0 else .b1 := by
  unfold State.acc State.sel
  split <;> rfl

/-- Settles O26: each of the three targets reads a half-word of its memory, engaged or not. -/
theorem ramWindowReads : Obligations.RamWindowReads := by
  intro p u l a prior tg off m s hf ha hd hram
  refine readTxn_memHalf u l prior hf ha hd ?_
  obtain ⟨rfl, rfl⟩ | ⟨rfl, rfl⟩ | ⟨rfl, c, rfl, rfl⟩ := hram
  · rfl
  · rw [← acc_eq]; rfl
  · rfl

/-! ## Gated writes -/

/-- A completed write call of either port that leaves the script to the call. -/
theorem portWrite_completes (hf : s.unheld p) (ha : callOk u l a)
    (hw : busWrite p { u := u, l := l } a v s = .done t) (hs : t.script = s.script) :
    Completes (p.writeTxn u l a v) s .done (t.done p.agent .done) := by
  have hx := writeTxn_done p u l a v s t hf ha hw
  rw [← writeTxn_agent p u l a v] at hx ⊢
  exact completes_of_exec hx hs

theorem gateWrite_open {res : Resource} (after : State) (h : p = .ext ∨ s.engaged res = false) :
    gateWrite p res s after = .done after := by
  cases p with
  | ext => rfl
  | int c => exact if_neg (by simpa using h)

theorem gateWrite_engaged {res : Resource} (c : CoreId) (after : State) (h : s.engaged res = true) :
    gateWrite (.int c) res s after = .held (.writeEngaged c res) := if_pos h

theorem busWrite_dram (ln : Lanes) (v : Half) (hd : decodeAddr p a s = some (.dram, off)) :
    busWrite p ln a v s = gateWrite p .fb s (s.setDram s.acc (memWrite s.accDram off ln v)) :=
  busWrite_eq ln v hd

theorem busWrite_palette (ln : Lanes) (v : Half) (hd : decodeAddr p a s = some (.reg .palette, off)) :
    busWrite p ln a v s = gateWrite p .pal s (writePalette off ln v s) := by
  rw [busWrite_eq ln v hd]
  cases p <;> rfl

/-- A new access bank leaves the selected one alone. -/
theorem setDram_acc_sel (s : State) (m : Memory) : (s.setDram s.acc m).dram.get s.sel = s.dram.get s.sel :=
  (PerBank.get_set ..).trans (if_neg (Bank.other_ne s.sel).symm)

theorem setDram_acc_get (s : State) (m : Memory) (x : Nat) :
    Mem.get ((s.setDram s.acc m).dram.get s.sel.other) x = Mem.get m x :=
  congrArg (Mem.get · x) ((PerBank.get_set ..).trans (if_pos rfl))

/-- Settles O29: an open gate lets the write of the selected lanes to the access bank through. -/
theorem framebufferWrites : Obligations.FramebufferWrites := by
  intro p u l a v off s hf ha hd hopen
  refine ⟨_, portWrite_completes hf ha ((busWrite_dram _ v hd).trans (gateWrite_open _ hopen)) rfl, rfl,
    setDram_acc_sel s _, fun x => ?_⟩
  exact (setDram_acc_get s _ x).trans (memWrite_get ..)

/-- Settles O30: a closed gate holds the write. -/
theorem engagedCoreWritesHold : Obligations.EngagedCoreWritesHold := by
  intro c u l a v off s hf ha
  constructor
  · intro hd he
    exact writeTxn_held c u l a v s _ hf ha ((busWrite_dram _ v hd).trans (gateWrite_engaged c _ he))
  · intro hd he
    exact writeTxn_held c u l a v s _ hf ha ((busWrite_palette _ v hd).trans (gateWrite_engaged c _ he))

/-! ## The palette -/

theorem targetRead_palette (p : Port) (off : Nat) (s : State) :
    targetRead p (.reg .palette) off s = .done (some ((Mem.get s.palette (off / 2)).setWidth 16), s) := by
  cases p <;> rfl

/-- Settles O31: the read shows the entry zero-extended, and an open gate lets the write of one entry
through. -/
theorem paletteAccesses : Obligations.PaletteAccesses := by
  intro p u l a v off s hf ha hd
  refine ⟨readTxn_done p u l a v _ s _ hf ha (busRead_value _ v hd (targetRead_palette p off s)),
    fun hopen => ⟨_, portWrite_completes hf ha ((busWrite_palette _ v hd).trans (gateWrite_open _ hopen)) rfl,
      rfl, fun i => ?_⟩⟩
  refine (Mem.get_set s.palette (off / 2) i _).trans ?_
  split
  · rename_i hi
    rw [hi]
  · rfl

end Sys2Proof.Machine
end

section
/-! PROOF. Autofill: the check of its range, the host's run, a core's fill in flight, and `FILLSTEP`
(43_framebuffer_arbiter R281 to R286). -/

namespace Sys2Proof.Machine

variable {p : Port} {u l : Bool} {a : Addr} {v w : Half} {s t : State} {off : Nat} {c : CoreId}

/-! ## The range -/

theorem checkFill_odd {b a n : Nat} (h : a % 2 = 1) : checkFill b a n = some .misalignedFill := if_pos h

theorem checkFill_past {b a n : Nat} (h : a % 2 = 0) (hb : b < a + 2 * n) :
    checkFill b a n = some .fillOutOfBank := by
  unfold checkFill
  rw [if_neg (by omega), if_pos hb]

theorem writeFillData_fault {e : Fault} (p : Port) (w : Half)
    (h : checkFill s.cfg.fbBankBytes (s.reg .fillAddr).toNat s.fillCount = some e) :
    writeFillData p w s = .fault e := by
  simp only [writeFillData, h]

theorem busWrite_fillData (ln : Lanes) (v : Half)
    (hd : decodeAddr p a s = some (.reg (.latch .fillData), off)) :
    busWrite p ln a v s = writeFillData p (merge16 (s.reg .fillData) v ln) s :=
  busWrite_latch ln v hd (by cases p <;> rfl)

theorem busWrite_fillAddr (ln : Lanes) (v : Half)
    (hd : decodeAddr p a s = some (.reg (.latch .fillAddr), off)) :
    busWrite p ln a v s =
      .done { s.setReg .fillAddr (merge16 (s.reg .fillAddr) v ln) with fillAddrDirty := false } :=
  busWrite_latch ln v hd (by cases p <;> rfl)

/-- The state after a fill in range is accepted: the run of the host, the fill in flight of a core. -/
def State.afterFillData (s : State) (w : Half) : Port → State
  | .ext => { (s.setReg .fillData w).setDram s.acc
        (fillRun s.accDram (s.reg .fillAddr).toNat w s.fillCount) with fillAddrDirty := true }
  | .int c => { (s.setReg .fillData w).setFill c
        (some { addr := (s.reg .fillAddr).toNat, left := s.fillCount, data := w }) with fillAddrDirty := true }

theorem writeFillData_done (p : Port) (w : Half)
    (h : checkFill s.cfg.fbBankBytes (s.reg .fillAddr).toNat s.fillCount = none) :
    writeFillData p w s = .done (s.afterFillData w p) := by
  cases p with
  | ext => exact writeFillData_ext h
  | int c => exact writeFillData_int h

/-- A `FILL_DATA` write in range completes (43_framebuffer_arbiter R282, R283). -/
theorem fillData_completes (v : Half) (hf : s.unheld p) (ha : callOk u l a)
    (hd : decodeAddr p a s = some (.reg (.latch .fillData), off)) (heven : (s.reg .fillAddr).toNat % 2 = 0)
    (hend : (s.reg .fillAddr).toNat + 2 * s.fillCount ≤ s.cfg.fbBankBytes) :
    Completes (p.writeTxn u l a v) s .done
      ((s.afterFillData (merge16 (s.reg .fillData) v { u := u, l := l }) p).done p.agent .done) :=
  portWrite_completes hf ha
    ((busWrite_fillData _ v hd).trans (writeFillData_done p _ (checkFill_none heven hend)))
    (by cases p <;> rfl)

/-- Settles O44: the outcomes of `checkFill`, and the write rule of `FILL_ADDR`. -/
theorem fillRangeIsChecked : Obligations.FillRangeIsChecked := by
  intro p u l a v off s hf ha
  refine ⟨fun hd => ⟨fun hodd => ?_, fun heven hpast => ?_, fun heven hend => ?_⟩, fun hd => ?_⟩
  · exact writeTxn_fault p u l a v s _ hf ha
      ((busWrite_fillData _ v hd).trans (writeFillData_fault p _ (checkFill_odd hodd)))
  · exact writeTxn_fault p u l a v s _ hf ha
      ((busWrite_fillData _ v hd).trans (writeFillData_fault p _ (checkFill_past heven hpast)))
  · exact ⟨_, fillData_completes v hf ha hd heven hend⟩
  · exact writeTxn_done p u l a v s _ hf ha (busWrite_fillAddr _ v hd)

/-- Settles O45: the host's range faults as every port's does, and in range the access bank is the run
(`fillRun_get`). -/
theorem hostFillWritesTheRun : Obligations.HostFillWritesTheRun := by
  intro u l a v off s ha hd w a0 n
  obtain ⟨hcheck, _⟩ := fillRangeIsChecked .ext u l a v off s trivial ha
  obtain ⟨hodd, hpast, _⟩ := hcheck hd
  refine ⟨hodd, hpast, fun heven hend => ⟨_, fillData_completes (p := .ext) v trivial ha hd heven hend, rfl,
    fun x => setReg_reg s .fillData x w, setDram_acc_sel s _, fun x => ?_⟩⟩
  exact (setDram_acc_get s _ x).trans (fillRun_get w n s.accDram a0 x heven)

/-- Settles O46: in range a core's write is the start of its fill. -/
theorem coreFillStartsInFlight : Obligations.CoreFillStartsInFlight := by
  intro c u l a v off s hf ha hd w a0 n heven hend
  exact ⟨_, fillData_completes (p := .int c) v hf ha hd heven hend, rfl, fun x => setReg_reg s .fillData x w,
    PerCore.get_set_same s.fill c _, PerCore.get_set_other s.fill c _⟩

/-! ## `FILLSTEP` -/

theorem fillStep_idle (hf : s.fill.get c = none) : fillStep c s = completed s := by
  simp only [fillStep, hf]

theorem fillStep_engaged {f : Fill} (hf : s.fill.get c = some f) (he : s.engagedFb = true) :
    fillStep c s = .held (.writeEngaged c .fb) := by
  simp only [fillStep, hf, he, if_true]

theorem fillStep_writes {f : Fill} (hf : s.fill.get c = some f) (he : s.engagedFb = false) :
    fillStep c s = completed
      ((s.setDram s.acc (memWrite s.accDram f.addr Lanes.full f.data)).setFill c (Fill.next f)) := by
  simp only [fillStep, hf, he, Bool.false_eq_true, if_false]

theorem exec_fillstep (c : CoreId) (s : State) :
    exec (.fillstep (.core c)) s = finish (.core c) s (fillStep c s) := rfl

/-- Settles O47: the three outcomes of `fillStep`. -/
theorem fillstepWritesOneHalfWord : Obligations.FillstepWritesOneHalfWord := by
  intro c s
  refine ⟨fun hf => ?_, fun f hf => ⟨fun he => ?_, fun he => ?_⟩⟩
  · rw [exec_fillstep, fillStep_idle hf]
    rfl
  · rw [Holds, exec_fillstep, fillStep_engaged hf he]
    rfl
  · have hx := exec_fillstep c s
    rw [fillStep_writes hf he, completed, finish_done] at hx
    refine ⟨_, completes_of_exec hx rfl, rfl, setDram_acc_sel s _, fun x => ?_,
      PerCore.get_set_other s.fill c _, PerCore.get_set_same s.fill c _⟩
    refine (setDram_acc_get s _ x).trans ((memWrite_get ..).trans ?_)
    simp only [Lanes.full, and_true]
    rfl

end Sys2Proof.Machine
end

section
/-! PROOF. The PWM sample generator: the sample writes, the divider clock with its ticks and its period, and
the interrupt that a run of divider clocks raises (44_pwm R302, R303, R305 to R309). -/

namespace Sys2Proof.Machine

variable {p : Port} {a : Addr} {s s₀ t : State} {w : Half} {side : Side} {sides : List Side} {C k n : Nat}

/-! ## Sample writes -/

theorem truncTo_toNat (n : Nat) (v : Half) : (truncTo n v).toNat = v.toNat % 2 ^ min 16 n := by
  rw [truncTo, BitVec.toNat_ofNat]
  obtain h | h := le_total 16 n
  · rw [min_eq_left h, Nat.mod_mod_of_dvd _ (Nat.pow_dvd_pow 2 h)]
  · rw [min_eq_right h, Nat.mod_mod_of_dvd' (Nat.pow_dvd_pow 2 h)]

theorem pushSample_room (p : Port) (a : Addr) (w : Half) (h : (s.pwmFifo.get side).length < s.cfg.pwmDepth) :
    pushSample p a side w s = { s with
      pwmFifo := s.pwmFifo.set side (s.pwmFifo.get side ++ [truncTo s.cfg.pwmSampleBits w]) } := if_pos h

theorem pushSample_full (p : Port) (a : Addr) (w : Half) (h : ¬ (s.pwmFifo.get side).length < s.cfg.pwmDepth) :
    pushSample p a side w s = s.addLog (.droppedWrite (.pwmFifoFull side) p.agent a) := if_neg h

theorem pushSample_frame (p : Port) (a : Addr) (side : Side) (w : Half) (s : State) :
    pushSample p a side w s = { s with
      pwmFifo := (pushSample p a side w s).pwmFifo, log := (pushSample p a side w s).log } := by
  unfold pushSample
  split <;> rfl

@[simp] theorem pushSample_cfg (p : Port) (a : Addr) (side : Side) (w : Half) (s : State) :
    (pushSample p a side w s).cfg = s.cfg := by rw [pushSample_frame]

theorem pushSample_pwmFifo (p : Port) (a : Addr) (side : Side) (w : Half) (s : State) (d : Side) :
    (pushSample p a side w s).pwmFifo.get d =
      if d = side ∧ (s.pwmFifo.get d).length < s.cfg.pwmDepth then
        s.pwmFifo.get d ++ [truncTo s.cfg.pwmSampleBits w]
      else s.pwmFifo.get d := by
  by_cases hroom : (s.pwmFifo.get side).length < s.cfg.pwmDepth
  · rw [pushSample_room p a w hroom, PerSide.get_set]
    by_cases hd : d = side
    · subst hd; simp [hroom]
    · simp [hd]
  · rw [pushSample_full p a w hroom, addLog_pwmFifo, if_neg]
    rintro ⟨rfl, h⟩
    exact hroom h

theorem pushSample_log (p : Port) (a : Addr) (side : Side) (w : Half) (s : State) :
    (pushSample p a side w s).log = s.log ++
      if s.cfg.pwmDepth ≤ (s.pwmFifo.get side).length then [.droppedWrite (.pwmFifoFull side) p.agent a]
      else [] := by
  by_cases hroom : (s.pwmFifo.get side).length < s.cfg.pwmDepth
  · rw [pushSample_room p a w hroom, if_neg (by omega), List.append_nil]
  · rw [pushSample_full p a w hroom, if_pos (by omega)]
    rfl

/-- A sample pushed into each FIFO of a list in turn: what a sample write does after its latch
(`busWrite_sample`). -/
def pushSamples (p : Port) (a : Addr) (w : Half) (sides : List Side) (s : State) : State :=
  sides.foldl (fun t side => pushSample p a side w t) s

theorem pushSamples_cons (p : Port) (a : Addr) (w : Half) (side : Side) (sides : List Side) (s : State) :
    pushSamples p a w (side :: sides) s = pushSamples p a w sides (pushSample p a side w s) := rfl

theorem pushSamples_frame (p : Port) (a : Addr) (w : Half) (sides : List Side) (s : State) :
    pushSamples p a w sides s = { s with
      pwmFifo := (pushSamples p a w sides s).pwmFifo, log := (pushSamples p a w sides s).log } := by
  induction sides generalizing s with
  | nil => rfl
  | cons side sides ih => rw [pushSamples_cons, ih, pushSample_frame]

/-- Pushes into other FIFOs do not fill this one, so each FIFO takes or loses the sample by its own room
(44_pwm R303). -/
theorem pushSamples_pwmFifo (p : Port) (a : Addr) (w : Half) (s : State) (d : Side) (hnd : sides.Nodup) :
    (pushSamples p a w sides s).pwmFifo.get d =
      if d ∈ sides ∧ (s.pwmFifo.get d).length < s.cfg.pwmDepth then
        s.pwmFifo.get d ++ [truncTo s.cfg.pwmSampleBits w]
      else s.pwmFifo.get d := by
  induction sides generalizing s with
  | nil => simp [pushSamples]
  | cons side sides ih =>
    obtain ⟨hside, hnd⟩ := List.nodup_cons.mp hnd
    rw [pushSamples_cons, ih _ hnd, pushSample_pwmFifo, pushSample_cfg]
    by_cases hd : d = side
    · subst hd; simp [hside]
    · simp [hd]

theorem pushSamples_log (p : Port) (a : Addr) (w : Half) (s : State) (hnd : sides.Nodup) :
    (pushSamples p a w sides s).log = s.log ++
      (sides.filter (fun side => s.cfg.pwmDepth ≤ (s.pwmFifo.get side).length)).map
        (fun side => .droppedWrite (.pwmFifoFull side) p.agent a) := by
  induction sides generalizing s with
  | nil => simp [pushSamples]
  | cons side sides ih =>
    obtain ⟨hside, hnd⟩ := List.nodup_cons.mp hnd
    have hrest : ∀ d ∈ sides, (pushSample p a side w s).pwmFifo.get d = s.pwmFifo.get d := by
      intro d hd
      rw [pushSample_pwmFifo, if_neg]
      rintro ⟨rfl, -⟩
      exact hside hd
    rw [pushSamples_cons, ih _ hnd, pushSample_log, List.append_assoc, pushSample_cfg,
      List.filter_congr fun d hd => by rw [hrest d hd], List.filter_cons]
    by_cases hfull : s.cfg.pwmDepth ≤ (s.pwmFifo.get side).length <;> simp [hfull]

/-- The FIFOs that a sample latch feeds (44_pwm R302, R303). -/
def Feeds (r : Latch) (sides : List Side) : Prop :=
  (r = .pwmLeft ∧ sides = [.left]) ∨ (r = .pwmRight ∧ sides = [.right])
    ∨ (r = .pwmMono ∧ sides = [.left, .right])

theorem Feeds.nodup {r : Latch} (h : Feeds r sides) : sides.Nodup := by
  obtain ⟨_, rfl⟩ | ⟨_, rfl⟩ | ⟨_, rfl⟩ := h <;> decide

theorem busWrite_sample {r : Latch} {off : Nat} (ln : Lanes) (v : Half)
    (hd : decodeAddr p a s = some (.reg (.latch r), off)) (h : Feeds r sides) :
    busWrite p ln a v s =
      .done (pushSamples p a (merge16 (s.reg r) v ln) sides (s.setReg r (merge16 (s.reg r) v ln))) := by
  obtain ⟨rfl, rfl⟩ | ⟨rfl, rfl⟩ | ⟨rfl, rfl⟩ := h <;>
    exact busWrite_latch ln v hd (by cases p <;> rfl)

/-- Settles O43: the write is `pushSamples` over the FIFOs of its latch. -/
theorem pwmSampleWritesPushOrDrop : Obligations.PwmSampleWritesPushOrDrop := by
  intro p u l a v r sides off s hf ha hd hr
  have hframe := pushSamples_frame p a (merge16 (s.reg r) v { u := u, l := l }) sides
    (s.setReg r (merge16 (s.reg r) v { u := u, l := l }))
  refine ⟨_, portWrite_completes hf ha (busWrite_sample _ v hd hr) ?_, ?_, fun x => ?_, fun side => ?_, ?_⟩
  · rw [hframe]; rfl
  · rw [hframe]; rfl
  · rw [hframe]; exact setReg_reg s r x _
  · exact ⟨_, truncTo_toNat _ _, pushSamples_pwmFifo p a _ _ side (Feeds.nodup hr)⟩
  · exact pushSamples_log p a _ _ (Feeds.nodup hr)

/-! ## The divider clock -/

theorem pwmClock_stopped (h : s.pwmClocks = 0) : pwmClock s = s := if_pos h

theorem pwmClock_counts (hC : s.pwmClocks ≠ 0) (h : s.divCount + 1 < s.pwmClocks) :
    pwmClock s = { s with divCount := s.divCount + 1 } := by
  rw [pwmClock, if_neg hC, if_neg (by omega)]

theorem pwmClock_ticks (hC : s.pwmClocks ≠ 0) (h : s.pwmClocks ≤ s.divCount + 1) :
    pwmClock s = pwmTick { s with divCount := 0 } := by
  rw [pwmClock, if_neg hC, if_pos h]

theorem exec_pwmclk (s : State) : exec (.pwmclk .env) s = .next ((pwmClock s).done .env .done) := rfl

/-! ## The tick -/

/-- The fields a tick may change (44_pwm R306, R307). -/
theorem pwmTick_frame (s : State) :
    pwmTick s = { s with
      ib := (pwmTick s).ib, dreq := (pwmTick s).dreq, pwmFifo := (pwmTick s).pwmFifo,
      pwmOut := (pwmTick s).pwmOut, periodCount := (pwmTick s).periodCount } := by
  rw [pwmTick, pwmPeriodStep_frame, tickSides_frame]

/-- What a tick of `s` leaves in `t` of one channel (44_pwm R306). -/
def SampleTaken (s t : State) (side : Side) : Prop :=
  match s.pwmMode side with
  | .on => match s.pwmFifo.get side with
    | [] => t.pwmFifo.get side = [] ∧ t.pwmOut.get side = s.pwmOut.get side
    | x :: rest => t.pwmFifo.get side = rest ∧ t.pwmOut.get side = x
  | .off => t.pwmFifo.get side = s.pwmFifo.get side ∧ t.pwmOut.get side = s.pwmOut.get side
  | .illegal => t.pwmFifo.get side = s.pwmFifo.get side ∧ t.pwmOut.get side = 0#16

theorem tickSide_sampleTaken (s : State) (side : Side) : SampleTaken s (tickSide s side) side := by
  rw [SampleTaken, tickSide_eq]
  simp only [PerSide.get_set, if_true]
  cases s.pwmMode side with
  | on => cases s.pwmFifo.get side with
    | nil => exact ⟨rfl, rfl⟩
    | cons x rest => exact ⟨rfl, rfl⟩
  | off => exact ⟨rfl, rfl⟩
  | illegal => exact ⟨rfl, rfl⟩

theorem SampleTaken.of_eq {u : State} (h : SampleTaken s t side)
    (hfifo : u.pwmFifo.get side = t.pwmFifo.get side) (hout : u.pwmOut.get side = t.pwmOut.get side) :
    SampleTaken s u side := by
  rw [SampleTaken, hfifo, hout]
  exact h

/-- The channels of a tick do not touch each other, and the period step reads no sample. -/
theorem pwmTick_sampleTaken (s : State) (side : Side) : SampleTaken s (pwmTick s) side := by
  obtain ⟨hfifo, hout⟩ := tickSides_get s side
  rw [pwmTick, pwmPeriodStep_frame]
  exact (tickSide_sampleTaken s side).of_eq hfifo hout

theorem pwmPeriodStep_counts (h : s.periodCount + 1 < s.pwmPeriod) :
    pwmPeriodStep s = { s with periodCount := s.periodCount + 1 } := if_neg (Nat.not_le.mpr h)

theorem pwmPeriodStep_fires (h : s.pwmPeriod ≤ s.periodCount + 1) :
    pwmPeriodStep s = { s with
      ib := (raiseSource .pwm s).ib
      dreq := if s.dreqIrq then { m := true, s := true } else s.dreq
      periodCount := 0 } := by
  rw [pwmPeriodStep, if_pos h]
  cases s.dreqIrq <;> rfl

/-- Below the period a tick is counted and raises nothing (44_pwm R307). -/
theorem pwmTick_counts (h : s.periodCount + 1 < s.pwmPeriod) :
    (pwmTick s).periodCount = s.periodCount + 1 ∧ (pwmTick s).ib = s.ib ∧ (pwmTick s).dreq = s.dreq := by
  rw [pwmTick, tickSides_frame, pwmPeriodStep_counts (by exact h)]
  exact ⟨rfl, rfl, rfl⟩

/-- At the period a tick raises PWM on both cores (44_pwm R307). -/
theorem pwmTick_fires (h : s.pwmPeriod ≤ s.periodCount + 1) :
    (pwmTick s).periodCount = 0
    ∧ (∀ c x, (pwmTick s).latch c x = if x = .pwm then { s.latch c x with active := true } else s.latch c x)
    ∧ (pwmTick s).dreq = if s.dreqIrq then { m := true, s := true } else s.dreq := by
  rw [pwmTick, tickSides_frame, pwmPeriodStep_fires (by exact h)]
  refine ⟨rfl, fun c x => ?_, rfl⟩
  exact (raiseSource_latch .pwm s c x).trans (by simp)

/-- Settles O49: a stopped and a counting clock, and a tick field by field. -/
theorem pwmclkCountsAndTicks : Obligations.PwmclkCountsAndTicks := by
  intro s
  refine ⟨fun hC => ?_, fun hC hdiv => ?_, fun hC hdiv => ?_⟩
  · rw [exec_pwmclk, pwmClock_stopped hC]
  · rw [exec_pwmclk, pwmClock_counts hC hdiv]
  · have hticks := pwmClock_ticks hC hdiv
    have hzero : 0 = (pwmClock s).divCount := by rw [hticks, pwmTick_frame]
    have hsamples := pwmTick_sampleTaken { s with divCount := 0 }
    have hcounts := pwmTick_counts (s := { s with divCount := 0 })
    have hfires := pwmTick_fires (s := { s with divCount := 0 })
    rw [← hticks] at hsamples hcounts hfires
    have hscript : (pwmClock s).script = s.script := by rw [pwmClock_frame]
    refine ⟨_, completes_of_exec (exec_pwmclk s) hscript, ?_, hsamples, hcounts, hfires⟩
    rw [hzero, done_script, hscript]
    exact congrArg (State.done · .env .done) (pwmClock_frame s)

/-! ## A run of divider clocks -/

theorem div_mod_succ_of_lt (h : k % C + 1 < C) : (k + 1) / C = k / C ∧ (k + 1) % C = k % C + 1 := by
  refine (Nat.div_mod_unique (by omega)).mpr ⟨?_, h⟩
  have := Nat.mod_add_div k C
  omega

theorem div_mod_succ_of_le (hC : 1 ≤ C) (h : C ≤ k % C + 1) :
    (k + 1) / C = k / C + 1 ∧ (k + 1) % C = 0 := by
  refine (Nat.div_mod_unique hC).mpr ⟨?_, hC⟩
  have := Nat.mod_add_div k C
  have := Nat.mod_lt k hC
  rw [Nat.mul_succ]
  omega

/-- The period count and the PWM latches of `s`, `n` ticks after a state `s₀` whose period count is 0: the
period has ended once `P` ticks have passed (44_pwm R307). -/
structure Ticked (s₀ : State) (n : Nat) (s : State) : Prop where
  period : s.pwmPeriod = s₀.pwmPeriod
  count : s.periodCount = n % s₀.pwmPeriod
  active : ∀ c, (s.latch c .pwm).active = ((s₀.latch c .pwm).active || decide (s₀.pwmPeriod ≤ n))

theorem Ticked.start (h : s.periodCount = 0) (hP : 1 ≤ s.pwmPeriod) : Ticked s 0 s :=
  ⟨rfl, by rw [h, Nat.zero_mod], fun c => by simp [Nat.not_le.mpr hP]⟩

/-- The facts of `Ticked` are about the configuration, the latches and the period count. -/
theorem Ticked.of_eq (h : Ticked s₀ n s) (hP : t.pwmPeriod = s.pwmPeriod)
    (hcount : t.periodCount = s.periodCount) (hib : t.ib = s.ib) : Ticked s₀ n t :=
  ⟨hP.trans h.period, hcount.trans h.count, fun c => by rw [← h.active c, State.latch, hib]; rfl⟩

theorem pwmTick_pwmPeriod (s : State) : (pwmTick s).pwmPeriod = s.pwmPeriod := by
  rw [pwmTick_frame]
  rfl

/-- A tick below the period is counted and changes no latch; the tick that ends a period stands at
a multiple of `P`. -/
theorem Ticked.tick (h : Ticked s₀ n s) (hP : 1 ≤ s₀.pwmPeriod) :
    Ticked s₀ (n + 1) (pwmTick s) ∧ (¬ s₀.pwmPeriod ∣ n + 1 → (pwmTick s).ib = s.ib) := by
  have hperiod := (pwmTick_pwmPeriod s).trans h.period
  obtain hlt | hle := lt_or_ge (n % s₀.pwmPeriod + 1) s₀.pwmPeriod
  · obtain ⟨hcount, hib, _⟩ := pwmTick_counts (s := s) (by rw [h.count, h.period]; exact hlt)
    have hfirst : s₀.pwmPeriod ≤ n + 1 ↔ s₀.pwmPeriod ≤ n := by
      have := Nat.mod_le n s₀.pwmPeriod
      refine ⟨fun _ => ?_, fun _ => by omega⟩
      by_contra hn
      rw [Nat.mod_eq_of_lt (by omega)] at hlt
      omega
    refine ⟨⟨hperiod, ?_, fun c => ?_⟩, fun _ => hib⟩
    · rw [hcount, h.count, (div_mod_succ_of_lt hlt).2]
    · rw [State.latch, hib, decide_eq_decide.mpr hfirst]
      exact h.active c
  · obtain ⟨hcount, hlatch, _⟩ := pwmTick_fires (s := s) (by rw [h.count, h.period]; exact hle)
    have hmod := (div_mod_succ_of_le hP hle).2
    have hdvd := Nat.dvd_of_mod_eq_zero hmod
    refine ⟨⟨hperiod, hcount.trans hmod.symm, fun c => ?_⟩, fun hn => absurd hdvd hn⟩
    rw [hlatch, if_pos rfl, decide_eq_true (Nat.le_of_dvd n.succ_pos hdvd), Bool.or_true]

/-- The counts and the PWM latches of `s`, `k` divider clocks after a state `s₀` whose counts are 0: `k / C` of
the clocks were ticks (44_pwm R305). -/
structure Clocked (s₀ : State) (k : Nat) (s : State) : Prop where
  clocks : s.pwmClocks = s₀.pwmClocks
  count : s.divCount = k % s₀.pwmClocks
  ticked : Ticked s₀ (k / s₀.pwmClocks) s

theorem Clocked.start (hdiv : s.divCount = 0) (hper : s.periodCount = 0) (hP : 1 ≤ s.pwmPeriod) :
    Clocked s 0 s :=
  ⟨rfl, by rw [hdiv, Nat.zero_mod], by rw [Nat.zero_div]; exact Ticked.start hper hP⟩

theorem Clocked.done (h : Clocked s₀ k s) (ag : Agent) (r : Reply) : Clocked s₀ k (s.done ag r) :=
  ⟨h.clocks, h.count, h.ticked.of_eq rfl rfl rfl⟩

theorem pwmClock_pwmClocks (s : State) : (pwmClock s).pwmClocks = s.pwmClocks := by
  rw [pwmClock_frame]
  rfl

/-- A clock only counts, or it is a tick; every tick stands at a multiple of `C`, so the tick that ends a period
stands at a multiple of `C * P`. -/
theorem Clocked.clock (h : Clocked s₀ k s) (hC : 1 ≤ s₀.pwmClocks) (hP : 1 ≤ s₀.pwmPeriod) :
    Clocked s₀ (k + 1) (pwmClock s)
    ∧ (¬ s₀.pwmClocks * s₀.pwmPeriod ∣ k + 1 → (pwmClock s).ib = s.ib) := by
  have hclocks := (pwmClock_pwmClocks s).trans h.clocks
  have hrun : s.pwmClocks ≠ 0 := by rw [h.clocks]; omega
  obtain hlt | hle := lt_or_ge (k % s₀.pwmClocks + 1) s₀.pwmClocks
  · obtain ⟨hdiv, hmod⟩ := div_mod_succ_of_lt hlt
    have hcounts := pwmClock_counts hrun (by rw [h.count, h.clocks]; exact hlt)
    have hib : (pwmClock s).ib = s.ib := by rw [hcounts]
    refine ⟨⟨hclocks, ?_, ?_⟩, fun _ => hib⟩
    · rw [hcounts, hmod, ← h.count]
    · rw [hdiv, hcounts]
      exact h.ticked.of_eq rfl rfl rfl
  · obtain ⟨hdiv, hmod⟩ := div_mod_succ_of_le hC hle
    have hticks := pwmClock_ticks hrun (by rw [h.count, h.clocks]; exact hle)
    have hreset : Ticked s₀ (k / s₀.pwmClocks) { s with divCount := 0 } := h.ticked.of_eq rfl rfl rfl
    obtain ⟨hticked, hquiet⟩ := hreset.tick hP
    refine ⟨⟨hclocks, ?_, ?_⟩, fun hn => ?_⟩
    · rw [hticks, hmod, pwmTick_frame]
    · rw [hticks, hdiv]
      exact hticked
    · rw [hticks]
      refine hquiet fun hdvd => hn ?_
      have hk : k + 1 = s₀.pwmClocks * (k / s₀.pwmClocks + 1) := by
        rw [← hdiv, Nat.mul_div_cancel' (Nat.dvd_of_mod_eq_zero hmod)]
      rw [hk]
      exact Nat.mul_dvd_mul_left _ hdvd

theorem exec_pwmclk_next (h : exec (.pwmclk .env) s = .next t) : t = (pwmClock s).done .env .done := by
  rw [exec_pwmclk, Host.Outcome.next.injEq] at h
  exact h.symm

theorem clocked_run {f : Nat → State} (hstart : Clocked (f 0) 0 (f 0)) (hC : 1 ≤ (f 0).pwmClocks)
    (hP : 1 ≤ (f 0).pwmPeriod) (hrun : ∀ k, exec (.pwmclk .env) (f k) = .next (f (k + 1))) (k : Nat) :
    Clocked (f 0) k (f k) := by
  induction k with
  | zero => exact hstart
  | succ k ih =>
    rw [exec_pwmclk_next (hrun k)]
    exact (ih.clock hC hP).1.done ..

/-- Settles O50: `Clocked` holds at the start of the run and each clock keeps it. -/
theorem pwmInterruptOncePerPeriod : Obligations.PwmInterruptOncePerPeriod := by
  intro f hC hP hdiv hper hrun k
  have hclocked := clocked_run (Clocked.start hdiv hper hP) hC hP hrun k
  have hended : (f 0).pwmPeriod ≤ k / (f 0).pwmClocks ↔ (f 0).pwmClocks * (f 0).pwmPeriod ≤ k := by
    rw [Nat.le_div_iff_mul_le hC, Nat.mul_comm]
  refine ⟨hclocked.count, hclocked.ticked.count, fun c => ?_, fun hn => ?_⟩
  · rw [hclocked.ticked.active c, decide_eq_decide.mpr hended]
  · rw [exec_pwmclk_next (hrun k)]
    exact (hclocked.clock hC hP).2 hn

end Sys2Proof.Machine
end

section
/-! PROOF. Stops and privilege: a stop sets its one mark, a marked state takes no further step, and no agent
changes what another agent owns (60_exceptions R335, R337 to R339). -/

namespace Sys2Proof.Machine

variable {s t u : State} {i : Instr} {r : Reply} {c d : CoreId} {p : Port} {ln : Lanes} {a : Addr} {v w : Half}
  {l : Latch}

/-! ## Marks -/

theorem stopped_of_fault {e : Fault} (h : s.fault = some e) : s.stopped = some (.fault e) := by
  simp only [State.stopped, h]

theorem stopped_of_refused {e : Refusal} (hf : s.fault = none) (h : s.refused = some e) :
    s.stopped = some (.refused e) := by
  simp only [State.stopped, hf, h]

theorem stopped_of_problem {e : ConfigError} (hm : s.unmarked) (h : s.cfg.problem = some e) :
    s.stopped = some (.refused (.badConfig e)) := by
  obtain ⟨hf, hr⟩ := hm
  simp only [State.stopped, hf, hr, h]

theorem step_stopped {o : Host.Outcome State Fault Refusal} (h : s.stopped = some o) : step s = o := by
  simp only [step, h]

theorem advance_of_fault {e : Fault} (hm : s.fault = none) (h : step s = .fault e) :
    advance s = { s with fault := some e } := by
  simp only [advance, h, State.after, hm]
  rfl

theorem advance_of_refused {e : Refusal} (hm : s.refused = none) (h : step s = .refused e) :
    advance s = { s with refused := some e } := by
  simp only [advance, h, State.after, hm]
  rfl

/-- A set mark is not overwritten (60_exceptions R335). -/
theorem after_fault_of_fault {e : Fault} (e' : Fault) (h : s.fault = some e) : s.after (.fault e') = s := by
  cases s
  cases h
  rfl

/-- A set mark is not overwritten (60_exceptions R337). -/
theorem after_refused_of_refused {e : Refusal} (e' : Refusal) (h : s.refused = some e) :
    s.after (.refused e') = s := by
  cases s
  cases h
  rfl

/-- A marked state stops again, for the mark that it has (60_exceptions R338). -/
theorem advance_of_marked (h : ¬ s.unmarked) : advance s = s := by
  cases hf : s.fault with
  | some e => rw [advance, step_stopped (stopped_of_fault hf), after_fault_of_fault e hf]
  | none =>
    obtain ⟨e, hr⟩ := Option.ne_none_iff_exists'.mp fun hr => h ⟨hf, hr⟩
    rw [advance, step_stopped (stopped_of_refused hf hr), after_refused_of_refused e hr]

/-- Settles O7: induction over the steps of the run, each of which leaves the marked state as it is
(`advance_of_marked`). -/
theorem marksAreSticky : Obligations.MarksAreSticky := by
  intro s n h
  induction n with
  | zero => rfl
  | succ n ih => rw [runFrom, advance_of_marked h, ih]

theorem runWord_rejected {word : TxnWord} {why : Reject} (h : decode s.cfg.dmaCountBits word = .rejected why) :
    runWord word s = .refused (.badWord why) := by
  simp only [runWord, h]

/-- The step whose agent has a transaction left attempts that transaction's word. -/
theorem step_of_fetch {word : TxnWord} (hm : s.unmarked) (hc : s.cfg.problem = none)
    (hf : s.fetch (takeTurn s).1 = some word) : step s = runWord word (takeTurn s).2 := by
  rw [step_run s hm hc (script_ne_nil_of_fetch hf)]
  refine runAgent_fetched ?_
  rw [State.fetch, takeTurn_script]
  exact hf

/-- The step whose agent has a word that the decoder refuses (30_encoding R130). -/
theorem step_of_fetch_rejected {word : TxnWord} {why : Reject} (hm : s.unmarked) (hc : s.cfg.problem = none)
    (hf : s.fetch (takeTurn s).1 = some word) (hd : decode s.cfg.dmaCountBits word = .rejected why) :
    step s = .refused (.badWord why) := by
  rw [step_of_fetch hm hc hf]
  exact runWord_rejected (by rw [takeTurn_cfg, hd])

/-- Settles O6: an unmarked state takes the mark of its stop, and the two causes of a refusal are a refused
word (`step_of_fetch_rejected`) and an ill-formed configuration (`stopped_of_problem`). -/
theorem stopsSetOnlyTheirMark : Obligations.StopsSetOnlyTheirMark := by
  refine ⟨fun s e hm h => advance_of_fault hm.1 h, fun s e hm h => advance_of_refused hm.2 h, ?_,
    fun s e hm h => step_stopped (stopped_of_problem hm h)⟩
  intro s ag rest word why hm hc hturn hf hd
  exact step_of_fetch_rejected hm hc (by rw [takeTurn_cons hturn]; exact hf) hd

/-! ## What an agent leaves alone -/

theorem CoreId.other_other (c : CoreId) : c.other.other = c := by cases c <;> rfl

/-- `t` has what core `c` owns as `s` has it: the interrupt latches, channels, fill, boot and cache flags and
cache RAM. An update that does not touch a field keeps it by its definition. -/
structure KeepsCore (c : CoreId) (s t : State) : Prop where
  latch      : ∀ x, t.latch c x = s.latch c x := by intro; rfl
  chan       : ∀ ch, t.chan c ch = s.chan c ch := by intro; rfl
  fill       : t.fill.get c = s.fill.get c := by rfl
  bootMapped : t.bootMapped.get c = s.bootMapped.get c := by rfl
  cacheEn    : t.cacheEn.get c = s.cacheEn.get c := by rfl
  cacheRam   : t.cacheRam.get c = s.cacheRam.get c := by rfl

/-- The registers that the host alone writes (41_bus_decoder R212, R225). -/
def hostLatches : List Latch :=
  [.adapterCtrl, .bankSelect, .dreqCtrl, .dreqSrcHi, .dreqSrcLo, .dreqDstHi, .dreqDstLo, .dreqLen, .dreqFifo]

/-- `t` has what the agents other than core `d` own as `s` has it: the other core's state and the host's
registers. -/
structure LeavesOthers (d : CoreId) (s t : State) : Prop extends KeepsCore d.other s t where
  hostRegs : ∀ x ∈ hostLatches, t.reg x = s.reg x := by intros; rfl

theorem LeavesOthers.trans (h : LeavesOthers d s t) (h' : LeavesOthers d t u) : LeavesOthers d s u where
  latch x := (h'.latch x).trans (h.latch x)
  chan ch := (h'.chan ch).trans (h.chan ch)
  fill := h'.fill.trans h.fill
  bootMapped := h'.bootMapped.trans h.bootMapped
  cacheEn := h'.cacheEn.trans h.cacheEn
  cacheRam := h'.cacheRam.trans h.cacheRam
  hostRegs x hx := (h'.hostRegs x hx).trans (h.hostRegs x hx)

/-- An update of core `d`'s interrupt latches, logged or not. -/
theorem LeavesOthers.of_ib {ib : IntRouter} {log : List Event} (ht : t = { s with ib := ib, log := log })
    (hlatch : ∀ x, t.latch d.other x = s.latch d.other x) : LeavesOthers d s t := by
  subst ht
  exact { latch := hlatch }

theorem LeavesOthers.setChan (d : CoreId) (ch : Channel) (k : DmaChannel) (s : State) :
    LeavesOthers d s (s.setChan d ch k) where
  chan x := by rw [setChan_chan, if_neg fun h => d.other_ne h.1]

/-- A bus write reaches a core's own state in its latches, its fill and its cache RAM only. -/
theorem Wrote.keepsCore (h : Wrote p ln a v s t) (hlatch : ∀ x, t.latch c x = s.latch c x)
    (hfill : t.fill.get c = s.fill.get c) (hcache : t.cacheRam.get c = s.cacheRam.get c) :
    KeepsCore c s t where
  latch := hlatch
  chan := h.chan c
  fill := hfill
  bootMapped := by rw [h.frame]
  cacheEn := by rw [h.frame]
  cacheRam := hcache

theorem Wrote.leavesOthers (h : Wrote (.int d) ln a v s t) : LeavesOthers d s t := by
  obtain ⟨_, _, _, hregs, hfill, hcache, hlatch, _⟩ := h.core
  exact { h.keepsCore hlatch hfill hcache with hostRegs := hregs }

/-- A drain writes as its core does, and advances a channel of its core. -/
theorem drain_leavesOthers (h : drain d s = .done (r, t)) : LeavesOthers d s t := by
  obtain ⟨_, rfl⟩ | ⟨ch, hi, lo, rest, t1, t2, _, _, _, _, _, _, _, hw1, hw2, rfl⟩ := drain_done h
  · exact {}
  · have hpop : LeavesOthers d s (setFifo rest s) := {}
    exact ((hpop.trans hw1.leavesOthers).trans hw2.leavesOthers).trans (.setChan ..)

/-- A core changes its own state and what no agent owns (60_exceptions R339). -/
theorem Ran.leavesOthers (h : Ran i s r t) (hi : i.agent = .core d) : LeavesOthers d s t := by
  cases h with
  | read p u l a prior v s t hf ha hb =>
    obtain ⟨k, e, rfl, _⟩ := busRead_done hb
    exact {}
  | write p u l a v s t hf ha hw =>
    rw [writeTxn_agent] at hi
    cases Port.eq_int_of_agent hi
    exact hw.leavesOthers
  | ack d src s =>
    cases hi
    exact .of_ib rfl fun x => by rw [acknowledge_latch, if_neg fun h => d.other_ne h.1]
  | seten d src b s =>
    cases hi
    exact .of_ib rfl fun x => by rw [setEnable_latch, if_neg fun h => d.other_ne h.1]
  | interrupt d m src s hp =>
    cases hi
    exact .of_ib (deliver_eq ..) fun x => by rw [deliver_latch, if_neg fun h => d.other_ne h.1]
  | drain d m r s t hq hd => cases hi; exact drain_leavesOthers hd
  | fillstepIdle d s hf => exact {}
  | fillstep d f s hf hg => cases hi; exact { fill := PerCore.get_set_other .. }
  | dmacfg d ch f v s => cases hi; exact .setChan ..
  | dmard d ch f s => exact {}
  | bootexit d s => cases hi; exact { bootMapped := PerCore.get_set_other .. }
  | cachecfg d b s => cases hi; exact { cacheEn := PerCore.get_set_other .. }
  | raise | vblank | hblank | pwmclk | reset | serialize => cases hi

/-! ## The host -/

theorem writeDreqCtrl_fill (h : writeDreqCtrl ln v s = .done t) : t.fill = s.fill := by
  unfold writeDreqCtrl at h
  simp only at h
  split at h
  · split at h
    · split at h
      · cases h; rfl
      · split at h
        · cases h
        · cases h; rfl
    · cases h; rfl
  · cases h; rfl

theorem writeDreqLen_fill (h : writeDreqLen w s = .done t) : t.fill = s.fill := by
  unfold writeDreqLen at h
  split at h
  · cases h
  · cases h; rfl

theorem writeDreqFifo_fill (p : Port) (a : Addr) (w : Half) (s : State) :
    (writeDreqFifo p a w s).fill = s.fill := by
  by_cases h : s.takesWord
  · rw [writeDreqFifo_queue p a w h, setFifo_fill, dropActiveAtZero_eq]
    rfl
  · rw [writeDreqFifo_drop p a w h]
    rfl

/-- The host's fill runs at once and is never in flight (43_framebuffer_arbiter R282). -/
theorem writeFillData_ext_fill (h : writeFillData .ext w s = .done t) : t.fill = s.fill := by
  cases hcheck : checkFill s.cfg.fbBankBytes (s.reg .fillAddr).toNat s.fillCount with
  | some e => rw [writeFillData_fault .ext w hcheck] at h; cases h
  | none => rw [writeFillData_ext hcheck] at h; cases h; rfl

theorem pushSample_fill (p : Port) (a : Addr) (side : Side) (w : Half) (s : State) :
    (pushSample p a side w s).fill = s.fill := by
  rw [pushSample_frame]

theorem writeLatch_ext_fill (h : writeLatch .ext a l ln v s = .done t) : t.fill = s.fill := by
  cases l with
  | dreqCtrl => exact writeDreqCtrl_fill h
  | dreqLen => exact writeDreqLen_fill h
  | dreqFifo => cases h; exact writeDreqFifo_fill ..
  | fillData => exact writeFillData_ext_fill h
  | pwmLeft | pwmRight => cases h; exact pushSample_fill ..
  | pwmMono => cases h; exact (pushSample_fill ..).trans (pushSample_fill ..)
  | _ => cases h; rfl

/-- The external bus has no view of a core's interrupt latches, of a fill in flight or of a cache. -/
theorem Wrote.ext_frame (h : Wrote .ext ln a v s t) :
    t.ib = s.ib ∧ t.fill = s.fill ∧ t.cacheRam = s.cacheRam := by
  cases h with
  | latch l off t hd hv hl =>
    have hframe := writeLatch_frame hl
    exact ⟨by rw [hframe], writeLatch_ext_fill hl, by rw [hframe]⟩
  | intMask c hp | intClr c src hp | cache c off hp hd => cases hp
  | _ => exact ⟨rfl, rfl, rfl⟩

theorem Wrote.ext_keepsCore (h : Wrote .ext ln a v s t) : KeepsCore c s t := by
  obtain ⟨hib, hfill, hcache⟩ := h.ext_frame
  exact h.keepsCore (fun x => by rw [State.latch, hib, State.latch]) (by rw [hfill]) (by rw [hcache])

/-- The host reaches the block by its bus calls only (60_exceptions R339). -/
theorem Ran.host_keepsCore (h : Ran i s r t) (hi : i.agent = .host) : KeepsCore c s t := by
  cases h with
  | read p u l a prior v s t hf ha hb =>
    obtain ⟨k, e, rfl, _⟩ := busRead_done hb
    exact {}
  | write p u l a v s t hf ha hw =>
    cases p with
    | ext => exact hw.ext_keepsCore
    | int d => cases hi
  | _ => cases hi

/-- Settles O57: a transaction that holds changes the answer only; one that runs leaves the others alone, for a
core by `Ran.leavesOthers` and for the host by `Ran.host_keepsCore`. -/
theorem agentsLeaveOtherCoresAlone : Obligations.AgentsLeaveOtherCoresAlone := by
  intro i c s t h hag
  obtain ⟨hd, rfl⟩ | ⟨r, u, hr, rfl⟩ := exec_next h
  · exact ⟨fun _ => rfl, fun _ => rfl, rfl, rfl, rfl, rfl, fun _ _ _ => rfl⟩
  · have hcore : i.agent = .core c.other → LeavesOthers c.other s u := hr.leavesOthers
    have hkeeps : KeepsCore c s u := by
      obtain hag | hag := hag
      · rw [← CoreId.other_other c]
        exact (hcore hag).toKeepsCore
      · exact hr.host_keepsCore hag
    exact ⟨hkeeps.latch, hkeeps.chan, hkeeps.fill, hkeeps.bootMapped, hkeeps.cacheEn, hkeeps.cacheRam,
      fun hag => (hcore hag).hostRegs⟩

end Sys2Proof.Machine
end

section
/-! PROOF. `RESET` clears the reset fields (70_reset R360, R361; 10_state R70), and reading the stream of
`SERIALIZE` back restores the fields of the walk (70_reset R366, 10_state R72, 00_scope R10). -/

namespace Sys2Proof.Machine

/-! ## Reset -/

theorem exec_reset (kind : ResetKind) (s : State) :
    exec (.reset .env kind) s = .next ((resetEffect kind s).done .env .done) := rfl

/-- Both columns of 10_state R70 agree with the state after power-on in every element but the memories, the
raster inputs, the log and the marks; of the other elements the configuration and the model's own stay. -/
theorem resetEffect_eq (kind : ResetKind) (s : State) :
    resetEffect kind s = { State.reset with
      cfg := s.cfg, script := s.script, turns := s.turns, reply := s.reply
      dram := (resetEffect kind s).dram, palette := (resetEffect kind s).palette
      cacheRam := (resetEffect kind s).cacheRam, sdram := (resetEffect kind s).sdram
      vblank := (resetEffect kind s).vblank, hblank := (resetEffect kind s).hblank
      log := (resetEffect kind s).log, draws := (resetEffect kind s).draws
      fault := (resetEffect kind s).fault, refused := (resetEffect kind s).refused } := by
  cases kind <;> rfl

theorem resetEffect_script (kind : ResetKind) (s : State) : (resetEffect kind s).script = s.script := by
  rw [resetEffect_eq]

/-- Settles O51: the cleared elements are those of the state after power-on (`resetEffect_eq`); what the two
kinds keep or draw is read off their effects. -/
theorem resetClearsTheResetFields : Obligations.ResetClearsTheResetFields := by
  intro kind s
  obtain ⟨hlatch, hreg, hchan, hfifo, hremaining, hdirty, hside, hdiv, hperiod, hcore, -⟩ :=
    resetStateIsAfterPowerOn
  refine ⟨_, completes_of_exec (exec_reset kind s) (resetEffect_script kind s), ?_⟩
  rw [resetEffect_eq]
  refine ⟨hlatch, hchan, hreg, hfifo, hremaining, hdirty, hdiv, hperiod, fun c => ?_, hside, rfl, rfl, ?_⟩
  · obtain ⟨hfill, hboot, hcache, hdreq⟩ := hcore c
    exact ⟨hdreq, hfill, hboot, hcache⟩
  · cases kind with
    | reset => exact ⟨rfl, rfl, rfl, rfl, rfl, rfl, rfl, rfl, rfl, rfl⟩
    | power =>
      refine ⟨rfl, rfl, rfl, rfl, rfl, rfl, fun b => ?_, rfl, fun c => ?_, rfl⟩
      · cases b <;> rfl
      · cases c <;> rfl

/-! ## Reading the walk back: each reader undoes its part of the walk -/

theorem exec_serialize (s : State) : exec (.serialize .env) s =
    .next ((s.addLog (.serialized (walk s) (serialize s))).done .env .done) := rfl

theorem readHalves_map (vs : List Half) (w : List WalkItem) :
    readHalves vs.length (vs.map .half ++ w) = some (vs, w) := by
  induction vs with
  | nil => rfl
  | cons v vs ih => simp only [List.length_cons, List.map_cons, List.cons_append, readHalves, ih]

theorem readRegs_walk (regs : Vector Half 27) (t : State) (w : List WalkItem) :
    readRegs t (regs.toList.map .half ++ w) = some ({ t with regs := regs }, w) := by
  have hread := readHalves_map regs.toList w
  rw [Vector.length_toList] at hread
  have harray : regs.toList.toArray = regs.toArray := Array.toArray_toList
  simp [readRegs, hread, harray]

theorem readFifos_walk (s t : State) (w : List WalkItem) :
    readFifos t (walkFifos s ++ w) = some ({ t with
      fifo := s.fifo, remaining := s.remaining, dreq := s.dreq, pwmFifo := s.pwmFifo, pwmOut := s.pwmOut
      divCount := s.divCount, periodCount := s.periodCount }, w) := rfl

theorem readChannel_walk (c : CoreId) (ch : Channel) (k : DmaChannel) (t : State) (w : List WalkItem) :
    readChannel c ch t (walkChannel k ++ w) = some (t.setChan c ch k, w) := rfl

/-- The Master's VRES has no storage, so the Slave's pair is left as it was (10_state R32). -/
theorem readLatches_walk_master (r : IntRouter) (t : State) (w : List WalkItem) :
    readLatches .m allSources t (walkLatches r .m ++ w) = some ({ t with ib.m := r.m }, w) := rfl

theorem readLatches_walk_slave (r : IntRouter) (t : State) (w : List WalkItem) :
    readLatches .s allSources t (walkLatches r .s ++ w)
      = some ({ t with ib := { t.ib with s := r.s, vres := r.vres } }, w) := rfl

theorem readFlags_walk (s t : State) (w : List WalkItem) :
    readFlags t (walkFlags s ++ w) = some ({ t with
      fill := s.fill, fillAddrDirty := s.fillAddrDirty, bootMapped := s.bootMapped, cacheEn := s.cacheEn
      vblank := s.vblank, hblank := s.hblank }, w) := rfl

theorem readMemories_walk (s t : State) :
    readMemories t (walkMemories s) = some { t with
      dram := s.dram, palette := s.palette, cacheRam := s.cacheRam, sdram := s.sdram } := rfl

/-- Reading the walk of `s` back into `t` gives `s` but for what the walk does not hold (10_state R72). -/
theorem restore_walk (s t : State) :
    restore (walk s) t = some { s with
      cfg := t.cfg, log := t.log, fault := t.fault, refused := t.refused, script := t.script
      turns := t.turns, reply := t.reply, draws := t.draws } := by
  simp only [restore, walk, List.append_assoc, readRegs_walk, readFifos_walk, readChannel_walk,
    readLatches_walk_master, readLatches_walk_slave, readFlags_walk, readMemories_walk, Option.bind_eq_bind,
    Option.bind_some]
  rfl

/-- Settles O53: the effect of `SERIALIZE` is its log entry, and reading the stream back is reading the walk
back (`deserialize_serialize`), which restores the fields it holds (`restore_walk`). -/
theorem serializeRoundTrips : Obligations.SerializeRoundTrips := fun s t =>
  ⟨exec_serialize s, fun hformat => (deserialize_serialize hformat).trans (restore_walk s t)⟩

end Sys2Proof.Machine
end
